-- ==== Sys2Proof/Word.lean ====
section
/-! DEFINITION. Sys2Proof/Word.lean: the number types of the core. Every value is unsigned (R8). -/

namespace Sys2Proof

/-- A register, a byte of memory, the delay timer: 8 bits (R20, R29, R30). -/
abbrev Byte := BitVec 8

/-- `I`, `pc`, a stack entry, an instruction word: 16 bits (R23, R24, R28, R91). -/
abbrev Word := BitVec 16

/-- The field `nnn`: a 12-bit address (R92). -/
abbrev Addr := BitVec 12

/-- The index of a general register, the value of a field `x` or `y` (R20, R92). -/
abbrev Reg := Fin 16

/-- The register VF (R21). -/
abbrev VF : Reg := 15

end Sys2Proof
end

