-- ==== Sys2Proof/Syntax.lean ====
section
/-! DEFINITION. Sys2Proof/Syntax.lean: the 34 instructions of R96, one constructor per row of spec/opcode_table.json, in
the table's order, and the form of a row of that table.

Each operand has the type of its field (R92): a register index `x` or `y` and the row count `n` are numbers below 16,
`nn` has 8 bits and `nnn` 12, so no term of `Instr` holds an operand its word could not hold. -/

namespace Sys2Proof

/-- An instruction (R96); the pattern of its row stands beside each constructor. -/
inductive Instr where
  | cls                           -- 00E0
  | ret                           -- 00EE
  | jp (nnn : Addr)               -- 1nnn
  | call (nnn : Addr)             -- 2nnn
  | seImm (x : Reg) (nn : Byte)   -- 3xnn
  | sneImm (x : Reg) (nn : Byte)  -- 4xnn
  | seReg (x y : Reg)             -- 5xy0
  | ldImm (x : Reg) (nn : Byte)   -- 6xnn
  | addImm (x : Reg) (nn : Byte)  -- 7xnn
  | ldReg (x y : Reg)             -- 8xy0
  | orReg (x y : Reg)             -- 8xy1
  | andReg (x y : Reg)            -- 8xy2
  | xorReg (x y : Reg)            -- 8xy3
  | addReg (x y : Reg)            -- 8xy4
  | subReg (x y : Reg)            -- 8xy5
  | shr (x y : Reg)               -- 8xy6, y is ignored by the machine
  | subn (x y : Reg)              -- 8xy7
  | shl (x y : Reg)               -- 8xyE, y is ignored by the machine
  | sneReg (x y : Reg)            -- 9xy0
  | ldI (nnn : Addr)              -- Annn
  | jpV0 (nnn : Addr)             -- Bnnn
  | rnd (x : Reg) (nn : Byte)     -- Cxnn
  | drw (x y : Reg) (n : Fin 16)  -- Dxyn
  | skp (x : Reg)                 -- Ex9E
  | sknp (x : Reg)                -- ExA1
  | ldVxDT (x : Reg)              -- Fx07
  | ldVxK (x : Reg)               -- Fx0A
  | ldDTVx (x : Reg)              -- Fx15
  | ldSTVx (x : Reg)              -- Fx18, x is ignored by the machine
  | addI (x : Reg)                -- Fx1E
  | ldF (x : Reg)                 -- Fx29
  | ldB (x : Reg)                 -- Fx33
  | store (x : Reg)               -- Fx55
  | load (x : Reg)                -- Fx65
  deriving DecidableEq, Repr

/-- A row of the opcode map (R96): a word `w` selects it when `w & mask = match`. -/
structure Row where
  mnemonic : String
  bits     : Word  -- the column `match`
  mask     : Word
  deriving DecidableEq, Repr

/-- The word selects the row (R96). -/
def Row.selects (r : Row) (w : Word) : Bool := (w &&& r.mask) == r.bits

/-- No word selects both rows: they differ in a bit that both fix (R96). -/
def Row.disjoint (r q : Row) : Bool := (r.bits &&& q.mask) != (q.bits &&& r.mask)

end Sys2Proof
end

