-- ==== Sys2Proof/WellFormed.lean ====
section
/-! DEFINITION. Sys2Proof/WellFormed.lean: what makes an entry of the opcode map, and the map, well formed.

Every term of `Instr` is well formed by its operands' types (Syntax.lean), so no check of instructions is needed and
statements about instructions quantify over all of `Instr`. What could be written down wrongly is the table of R96; its
checks stand here, and Laws/Encoding.lean shows that the table passes them. -/

namespace Sys2Proof

/-- A row fixes no bit that its mask leaves free (R96). -/
def Row.matchInMask (r : Row) : Bool := (r.bits &&& ~~~r.mask) == 0

/-- A row fixes the whole family nibble, the first level of the decoding (R92, R95). -/
def Row.fixesFamily (r : Row) : Bool := (r.mask &&& 0xF000) == 0xF000

/-- A row of the opcode map is well formed. -/
def Row.wellFormed (r : Row) : Bool := r.matchInMask && r.fixesFamily

/-- No row of the list shares a word with a later one: "No two rows overlap" (R96). -/
def rowsDisjoint : List Row → Bool
  | [] => true
  | r :: rest => rest.all r.disjoint && rowsDisjoint rest

/-- A table is well formed: every row is, and no two overlap (R96). -/
def tableWellFormed (t : List Row) : Bool := t.all Row.wellFormed && rowsDisjoint t

end Sys2Proof
end

