-- ==== Sys2Proof/Decode.lean ====
section
/-! DEFINITION. Sys2Proof/Decode.lean: the decoder (R92, R95 to R98), the encoder (R93, R96) and the opcode map (R96). -/

namespace Sys2Proof

/-- Why bytes are no instruction. -/
inductive DecodeError where
  /-- `UNIMPL`: the word is none of the 34 instructions (R98); the machine goes on, see `execUnimplemented`. -/
  | unimplemented (op : Word)
  /-- Fewer than the two bytes of an instruction were given (R91). -/
  | truncated
  deriving DecidableEq, Repr

/-- The family, bits 15 to 12 (R92). -/
def fieldFam (w : Word) : BitVec 4 := w.extractLsb' 12 4

/-- The register index `x`, bits 11 to 8 (R92). -/
def fieldX (w : Word) : Reg := (w.extractLsb' 8 4).toFin

/-- The register index `y`, bits 7 to 4 (R92). -/
def fieldY (w : Word) : Reg := (w.extractLsb' 4 4).toFin

/-- The 4-bit immediate `n`, bits 3 to 0 (R92). -/
def fieldN (w : Word) : Fin 16 := (w.extractLsb' 0 4).toFin

/-- The 8-bit immediate `nn`, bits 7 to 0 (R92). -/
def fieldNN (w : Word) : Byte := w.extractLsb' 0 8

/-- The 12-bit address `nnn`, bits 11 to 0 (R92). -/
def fieldNNN (w : Word) : Addr := w.extractLsb' 0 12

/-- Family 8: the sub-opcode is `n` (R95). -/
def decodeFamily8 (w : Word) : Except DecodeError Instr :=
  match (fieldN w).val with
  | 0x0 => .ok (.ldReg (fieldX w) (fieldY w))
  | 0x1 => .ok (.orReg (fieldX w) (fieldY w))
  | 0x2 => .ok (.andReg (fieldX w) (fieldY w))
  | 0x3 => .ok (.xorReg (fieldX w) (fieldY w))
  | 0x4 => .ok (.addReg (fieldX w) (fieldY w))
  | 0x5 => .ok (.subReg (fieldX w) (fieldY w))
  | 0x6 => .ok (.shr (fieldX w) (fieldY w))
  | 0x7 => .ok (.subn (fieldX w) (fieldY w))
  | 0xE => .ok (.shl (fieldX w) (fieldY w))
  | _ => .error (.unimplemented w)

/-- Family F: the sub-opcode is `nn` (R95). -/
def decodeFamilyF (w : Word) : Except DecodeError Instr :=
  match (fieldNN w).toNat with
  | 0x07 => .ok (.ldVxDT (fieldX w))
  | 0x0A => .ok (.ldVxK (fieldX w))
  | 0x15 => .ok (.ldDTVx (fieldX w))
  | 0x18 => .ok (.ldSTVx (fieldX w))
  | 0x1E => .ok (.addI (fieldX w))
  | 0x29 => .ok (.ldF (fieldX w))
  | 0x33 => .ok (.ldB (fieldX w))
  | 0x55 => .ok (.store (fieldX w))
  | 0x65 => .ok (.load (fieldX w))
  | _ => .error (.unimplemented w)

/-- The decoding procedure of R95: total, a function of the word alone. The fixed digits of a pattern are matched
exactly (R97). The last arm is family F, the only one left for a 4-bit value. -/
def decodeWord (w : Word) : Except DecodeError Instr :=
  match (fieldFam w).toNat with
  | 0x0 => if w = 0x00E0 then .ok .cls else if w = 0x00EE then .ok .ret else .error (.unimplemented w)
  | 0x1 => .ok (.jp (fieldNNN w))
  | 0x2 => .ok (.call (fieldNNN w))
  | 0x3 => .ok (.seImm (fieldX w) (fieldNN w))
  | 0x4 => .ok (.sneImm (fieldX w) (fieldNN w))
  | 0x5 => if fieldN w = 0 then .ok (.seReg (fieldX w) (fieldY w)) else .error (.unimplemented w)
  | 0x6 => .ok (.ldImm (fieldX w) (fieldNN w))
  | 0x7 => .ok (.addImm (fieldX w) (fieldNN w))
  | 0x8 => decodeFamily8 w
  | 0x9 => if fieldN w = 0 then .ok (.sneReg (fieldX w) (fieldY w)) else .error (.unimplemented w)
  | 0xA => .ok (.ldI (fieldNNN w))
  | 0xB => .ok (.jpV0 (fieldNNN w))
  | 0xC => .ok (.rnd (fieldX w) (fieldNN w))
  | 0xD => .ok (.drw (fieldX w) (fieldY w) (fieldN w))
  | 0xE =>
    if fieldNN w = 0x9E then .ok (.skp (fieldX w))
    else if fieldNN w = 0xA1 then .ok (.sknp (fieldX w))
    else .error (.unimplemented w)
  | _ => decodeFamilyF w

/-- The 16-bit word of two bytes, big-endian: the byte at the lower address holds bits 15 to 8 (R66). -/
def wordOfBytes (hi lo : Byte) : Word := hi ++ lo

/-- The byte of a word that is stored at the lower address (R66). -/
def highByte (w : Word) : Byte := w.extractLsb' 8 8

/-- The byte of a word that is stored at the higher address (R66). -/
def lowByte (w : Word) : Byte := w.extractLsb' 0 8

/-- Decode the instruction at the head of a byte sequence, and give the bytes after it (R66, R91). -/
def decode : List Byte → Except DecodeError (Instr × List Byte)
  | hi :: lo :: rest =>
    match decodeWord (wordOfBytes hi lo) with
    | .ok i => .ok (i, rest)
    | .error e => .error e
  | _ => .error .truncated

/-- A register index or a row count as a 4-bit field. -/
def nibble (r : Fin 16) : BitVec 4 := BitVec.ofFin r

/-- The word of an instruction, by the formats of R93 and the map of R96. -/
def encode : Instr → Word
  | .cls => 0x00E0
  | .ret => 0x00EE
  | .jp nnn => 0x1#4 ++ nnn
  | .call nnn => 0x2#4 ++ nnn
  | .seImm x nn => 0x3#4 ++ nibble x ++ nn
  | .sneImm x nn => 0x4#4 ++ nibble x ++ nn
  | .seReg x y => 0x5#4 ++ nibble x ++ nibble y ++ 0x0#4
  | .ldImm x nn => 0x6#4 ++ nibble x ++ nn
  | .addImm x nn => 0x7#4 ++ nibble x ++ nn
  | .ldReg x y => 0x8#4 ++ nibble x ++ nibble y ++ 0x0#4
  | .orReg x y => 0x8#4 ++ nibble x ++ nibble y ++ 0x1#4
  | .andReg x y => 0x8#4 ++ nibble x ++ nibble y ++ 0x2#4
  | .xorReg x y => 0x8#4 ++ nibble x ++ nibble y ++ 0x3#4
  | .addReg x y => 0x8#4 ++ nibble x ++ nibble y ++ 0x4#4
  | .subReg x y => 0x8#4 ++ nibble x ++ nibble y ++ 0x5#4
  | .shr x y => 0x8#4 ++ nibble x ++ nibble y ++ 0x6#4
  | .subn x y => 0x8#4 ++ nibble x ++ nibble y ++ 0x7#4
  | .shl x y => 0x8#4 ++ nibble x ++ nibble y ++ 0xE#4
  | .sneReg x y => 0x9#4 ++ nibble x ++ nibble y ++ 0x0#4
  | .ldI nnn => 0xA#4 ++ nnn
  | .jpV0 nnn => 0xB#4 ++ nnn
  | .rnd x nn => 0xC#4 ++ nibble x ++ nn
  | .drw x y n => 0xD#4 ++ nibble x ++ nibble y ++ nibble n
  | .skp x => 0xE#4 ++ nibble x ++ 0x9E#8
  | .sknp x => 0xE#4 ++ nibble x ++ 0xA1#8
  | .ldVxDT x => 0xF#4 ++ nibble x ++ 0x07#8
  | .ldVxK x => 0xF#4 ++ nibble x ++ 0x0A#8
  | .ldDTVx x => 0xF#4 ++ nibble x ++ 0x15#8
  | .ldSTVx x => 0xF#4 ++ nibble x ++ 0x18#8
  | .addI x => 0xF#4 ++ nibble x ++ 0x1E#8
  | .ldF x => 0xF#4 ++ nibble x ++ 0x29#8
  | .ldB x => 0xF#4 ++ nibble x ++ 0x33#8
  | .store x => 0xF#4 ++ nibble x ++ 0x55#8
  | .load x => 0xF#4 ++ nibble x ++ 0x65#8

/-- The two bytes of an instruction, in the order of their addresses (R66). -/
def encodeBytes (i : Instr) : List Byte := [highByte (encode i), lowByte (encode i)]

/-- The opcode map of R96, the rows of spec/opcode_table.json in their order. -/
def opcodeTable : List Row :=
  [
    ⟨"00E0", 0x00E0, 0xFFFF⟩,
    ⟨"00EE", 0x00EE, 0xFFFF⟩,
    ⟨"1nnn", 0x1000, 0xF000⟩,
    ⟨"2nnn", 0x2000, 0xF000⟩,
    ⟨"3xnn", 0x3000, 0xF000⟩,
    ⟨"4xnn", 0x4000, 0xF000⟩,
    ⟨"5xy0", 0x5000, 0xF00F⟩,
    ⟨"6xnn", 0x6000, 0xF000⟩,
    ⟨"7xnn", 0x7000, 0xF000⟩]
  ++ [
    ⟨"8xy0", 0x8000, 0xF00F⟩,
    ⟨"8xy1", 0x8001, 0xF00F⟩,
    ⟨"8xy2", 0x8002, 0xF00F⟩,
    ⟨"8xy3", 0x8003, 0xF00F⟩,
    ⟨"8xy4", 0x8004, 0xF00F⟩,
    ⟨"8xy5", 0x8005, 0xF00F⟩,
    ⟨"8xy6", 0x8006, 0xF00F⟩,
    ⟨"8xy7", 0x8007, 0xF00F⟩,
    ⟨"8xyE", 0x800E, 0xF00F⟩]
  ++ [
    ⟨"9xy0", 0x9000, 0xF00F⟩,
    ⟨"Annn", 0xA000, 0xF000⟩,
    ⟨"Bnnn", 0xB000, 0xF000⟩,
    ⟨"Cxnn", 0xC000, 0xF000⟩,
    ⟨"Dxyn", 0xD000, 0xF000⟩,
    ⟨"Ex9E", 0xE09E, 0xF0FF⟩,
    ⟨"ExA1", 0xE0A1, 0xF0FF⟩,
    ⟨"Fx07", 0xF007, 0xF0FF⟩,
    ⟨"Fx0A", 0xF00A, 0xF0FF⟩]
  ++ [
    ⟨"Fx15", 0xF015, 0xF0FF⟩,
    ⟨"Fx18", 0xF018, 0xF0FF⟩,
    ⟨"Fx1E", 0xF01E, 0xF0FF⟩,
    ⟨"Fx29", 0xF029, 0xF0FF⟩,
    ⟨"Fx33", 0xF033, 0xF0FF⟩,
    ⟨"Fx55", 0xF055, 0xF0FF⟩,
    ⟨"Fx65", 0xF065, 0xF0FF⟩]

/-- The row of the opcode map an instruction belongs to (R96). -/
def Instr.row : Instr → Row
  | .cls => ⟨"00E0", 0x00E0, 0xFFFF⟩
  | .ret => ⟨"00EE", 0x00EE, 0xFFFF⟩
  | .jp _ => ⟨"1nnn", 0x1000, 0xF000⟩
  | .call _ => ⟨"2nnn", 0x2000, 0xF000⟩
  | .seImm _ _ => ⟨"3xnn", 0x3000, 0xF000⟩
  | .sneImm _ _ => ⟨"4xnn", 0x4000, 0xF000⟩
  | .seReg _ _ => ⟨"5xy0", 0x5000, 0xF00F⟩
  | .ldImm _ _ => ⟨"6xnn", 0x6000, 0xF000⟩
  | .addImm _ _ => ⟨"7xnn", 0x7000, 0xF000⟩
  | .ldReg _ _ => ⟨"8xy0", 0x8000, 0xF00F⟩
  | .orReg _ _ => ⟨"8xy1", 0x8001, 0xF00F⟩
  | .andReg _ _ => ⟨"8xy2", 0x8002, 0xF00F⟩
  | .xorReg _ _ => ⟨"8xy3", 0x8003, 0xF00F⟩
  | .addReg _ _ => ⟨"8xy4", 0x8004, 0xF00F⟩
  | .subReg _ _ => ⟨"8xy5", 0x8005, 0xF00F⟩
  | .shr _ _ => ⟨"8xy6", 0x8006, 0xF00F⟩
  | .subn _ _ => ⟨"8xy7", 0x8007, 0xF00F⟩
  | .shl _ _ => ⟨"8xyE", 0x800E, 0xF00F⟩
  | .sneReg _ _ => ⟨"9xy0", 0x9000, 0xF00F⟩
  | .ldI _ => ⟨"Annn", 0xA000, 0xF000⟩
  | .jpV0 _ => ⟨"Bnnn", 0xB000, 0xF000⟩
  | .rnd _ _ => ⟨"Cxnn", 0xC000, 0xF000⟩
  | .drw _ _ _ => ⟨"Dxyn", 0xD000, 0xF000⟩
  | .skp _ => ⟨"Ex9E", 0xE09E, 0xF0FF⟩
  | .sknp _ => ⟨"ExA1", 0xE0A1, 0xF0FF⟩
  | .ldVxDT _ => ⟨"Fx07", 0xF007, 0xF0FF⟩
  | .ldVxK _ => ⟨"Fx0A", 0xF00A, 0xF0FF⟩
  | .ldDTVx _ => ⟨"Fx15", 0xF015, 0xF0FF⟩
  | .ldSTVx _ => ⟨"Fx18", 0xF018, 0xF0FF⟩
  | .addI _ => ⟨"Fx1E", 0xF01E, 0xF0FF⟩
  | .ldF _ => ⟨"Fx29", 0xF029, 0xF0FF⟩
  | .ldB _ => ⟨"Fx33", 0xF033, 0xF0FF⟩
  | .store _ => ⟨"Fx55", 0xF055, 0xF0FF⟩
  | .load _ => ⟨"Fx65", 0xF065, 0xF0FF⟩

/-- The instruction the decoder reads from a word whose low `nbits` bits are those of `w`, the bits above them zero, laid
out as two bytes, the high byte first (R66, R91); none where the word is `UNIMPL`. -/
def decodeTableWord (nbits w : Nat) : Option Instr :=
  let op : Word := BitVec.ofNat 16 (w % 2 ^ nbits)
  match decode [highByte op, lowByte op] with
  | .ok (i, _) => some i
  | .error _ => none

end Sys2Proof
end

