-- ==== Sys2Proof/Config.lean ====
section
/-! DEFINITION. Sys2Proof/Config.lean: the open parameters of R7 and the random input of R36. -/

namespace Sys2Proof

/-- The parameter `VF_ORDER` (R163, D10): the order of the two register writes of `8xy4`, `8xy5`, `8xy6`, `8xy7` and
`8xyE`, which matters only when VF is an operand. -/
inductive VfOrder where
  | flagFirst   -- the flag is written, then the operation reads its operands again (the spec's default)
  | resultLast  -- the result is written, then the flag
  deriving DecidableEq, Repr

/-- The parameter `ROM_MAX` (R7, R64, C1, D4): the two values the source's text gives. -/
inductive RomMax where
  | bytes3583  -- 0xFFF - 0x200, the spec's default
  | bytes3584  -- 0x1000 - 0x200
  deriving DecidableEq, Repr

/-- The open parameters that one machine fixes (R7). They stand in the state, and no step writes them, so that a
statement about every state holds for every choice of them (log 4). -/
structure Params where
  vfOrder : VfOrder
  romMax  : RomMax
  font    : Vector Byte 80
  deriving DecidableEq, Repr

/-- The random byte of the `k`-th draw (R36, R161, D12): a free value, with no body and under no law (log 3). -/
opaque Config.rnd : Nat → Byte

end Sys2Proof
end

