-- ==== Sys2Proof/Machine/Defaults.lean ====
section
/-! DEFINITION. Sys2Proof/Machine/Defaults.lean: the defaults the spec takes for its open parameters (R7, R63, R64, R163). -/

namespace Sys2Proof.Machine

/-- The number of bytes `ROM_MAX` stands for (R7, C1). -/
def romMaxBytes : RomMax → Nat
  | .bytes3583 => 3583
  | .bytes3584 => 3584

/-- The five bytes of one glyph, top row first (R62). -/
def glyph (a b c d e : Byte) : Vector Byte 5 := #v[a, b, c, d, e]

/-- The default of the parameter `FONT`, the table of R63 (general knowledge of the spec's writer, G1; log 12). -/
def defaultFont : Vector Byte 80 :=
  glyph 0xF0 0x90 0x90 0x90 0xF0 ++ glyph 0x20 0x60 0x20 0x20 0x70
  ++ glyph 0xF0 0x10 0xF0 0x80 0xF0 ++ glyph 0xF0 0x10 0xF0 0x10 0xF0
  ++ glyph 0x90 0x90 0xF0 0x10 0x10 ++ glyph 0xF0 0x80 0xF0 0x10 0xF0
  ++ glyph 0xF0 0x80 0xF0 0x90 0xF0 ++ glyph 0xF0 0x10 0x20 0x40 0x40
  ++ glyph 0xF0 0x90 0xF0 0x90 0xF0 ++ glyph 0xF0 0x90 0xF0 0x10 0xF0
  ++ glyph 0xF0 0x90 0xF0 0x90 0x90 ++ glyph 0xE0 0x90 0xE0 0x90 0xE0
  ++ glyph 0xF0 0x80 0x80 0x80 0xF0 ++ glyph 0xE0 0x90 0x90 0x90 0xE0
  ++ glyph 0xF0 0x80 0xF0 0x80 0xF0 ++ glyph 0xF0 0x80 0xF0 0x80 0x80

/-- The parameters at the spec's defaults (R7): `flag_first`, `ROM_MAX` = 3583, the font of R63. -/
def defaultParams : Params := { vfOrder := .flagFirst, romMax := .bytes3583, font := defaultFont }

end Sys2Proof.Machine
end

