-- ==== Sys2Proof/Machine/State.lean ====
section
/-! DEFINITION. Sys2Proof/Machine/State.lean: everything the spec gives the machine (10_state.md), as plain data, and the
state after reset (R42). The fields bear the spec's names. -/

namespace Sys2Proof.Machine

/-- The values of the fault latch (R34, R190). -/
inductive FaultCause where
  | none                -- code 0
  | stackOverflow       -- code 1, raised by `2nnn`
  | stackUnderflow      -- code 2, raised by `00EE`
  | memoryOutOfRange    -- code 3, raised by the fetch, `Dxyn`, `Fx33`, `Fx55`, `Fx65`
  | keyIndexOutOfRange  -- code 4, raised by `Ex9E`, `ExA1`
  deriving DecidableEq, Repr

/-- The cause-specific part of `fault_info` (R190, R194). -/
inductive FaultDetail where
  | nothing                     -- the two stack faults record only pc and opcode
  | access (first count : Nat)  -- the first address and the byte count of an access out of range
  | key (value : Byte)          -- the value of V[x] used as a key code
  deriving DecidableEq, Repr

/-- The information word `fault_info` (R34, R190): the pc of the faulting instruction, its opcode when one was fetched,
and the cause-specific value. -/
structure FaultInfo where
  pc     : Word
  opcode : Option Word
  detail : FaultDetail
  deriving DecidableEq, Repr

/-- The event `UnimplementedOpcode(pc, op)` on the port `diag` (R98, R198). -/
structure DiagEvent where
  pc : Word
  op : Word
  deriving DecidableEq, Repr

/-- The result of `LOAD` on the port `load_status` (R39, R231). -/
inductive LoadStatus where
  | ok
  | tooLarge
  deriving DecidableEq, Repr

/-- A command of the host (R40). -/
inductive Command where
  | exec
  | tick
  | keys (k : BitVec 16)
  | reset
  | load (rom : List Byte)
  deriving DecidableEq, Repr

/-- The state of the core. The first twelve fields are the spec's elements (R20 to R35, R42); `diagEvents` and
`loadStatus` keep what the output ports gave (R39; log 7, log 8); `draws`, `commands` and `params` are the model's own
(log 3, log 1, log 4). -/
structure State where
  V          : Vector Byte 16                 -- V0 to VF (R20)
  I          : Word                           -- index register (R23)
  pc         : Word                           -- program counter (R24)
  sp         : Fin 17                         -- number of live stack entries, 0 to 16 (R27; log 9)
  stack      : Vector Word 16                 -- return addresses (R28)
  DT         : Byte                           -- delay timer (R29)
  mem        : List Host.Cell                 -- the bytes that differ from the reset contents (R30; log 11)
  FB         : Vector (Vector Bool 64) 32     -- pixel rows, top row first, left column first (R31)
  KEY        : BitVec 16                      -- bit k is key k, 1 is down (R33)
  fault      : FaultCause                     -- the fault latch (R34)
  faultInfo  : Option FaultInfo               -- `fault_info` (R34)
  diagSeen   : Bool                           -- `diag_seen` (R35)
  diagEvents : List DiagEvent                 -- events put out since the last reset, newest first (R198)
  loadStatus : Option LoadStatus              -- result of the last `LOAD` since the last reset (R39)
  draws      : Nat                            -- how many random bytes have been drawn (R36)
  commands   : List Command                   -- the host's commands still to be carried out, oldest first (R41)
  params     : Params                         -- the open parameters (R7), never written
  deriving DecidableEq, Repr

/-- Why the model would stop with a fault: never. Every fault of the spec is a latched condition of the machine, a next
state (R194, R196; log 5), so there is no constructor. -/
inductive Fault where
  deriving DecidableEq, Repr

/-- Why the model would refuse an instruction. -/
inductive Refusal where
  /-- Raised by an arm of `exec` that has no meaning yet, with the row's mnemonic; no arm raises it now. It is safe: the
  model stops and no statement about a next state holds of it. -/
  | notModelled (mnemonic : String)
  deriving DecidableEq, Repr

/-- What a step of the core answers. -/
abbrev Result := Host.Outcome State Fault Refusal

/-- `PROG_BASE` (R6): the load address of a ROM and the reset value of `pc`. -/
abbrev progBase : Nat := 0x200

/-- The state after `RESET` and after power-on (R42, R230, R233), with the parameters at their defaults. Memory lists
nothing: an unlisted byte reads as its reset value (`resetByte`). -/
def State.reset : State where
  V          := Vector.replicate 16 0
  I          := 0
  pc         := 0x200
  sp         := 0
  stack      := Vector.replicate 16 0
  DT         := 0
  mem        := []
  FB         := Vector.replicate 32 (Vector.replicate 64 false)
  KEY        := 0
  fault      := .none
  faultInfo  := none
  diagSeen   := false
  diagEvents := []
  loadStatus := none
  draws      := 0
  commands   := []
  params     := defaultParams

end Sys2Proof.Machine
end

