-- ==== Sys2Proof/Machine/Ops.lean ====
section
/-! DEFINITION. Sys2Proof/Machine/Ops.lean: the named operations over memory, registers, stack, framebuffer and keys, the
advance of pc, and taking a fault. Notation of R9. -/

namespace Sys2Proof.Machine

/-! ### Memory (R30, R60 to R73) -/

/-- What a byte reads as after reset, and so an unlisted byte: the font at 0 to 79, zero elsewhere (R42, R61, R62). -/
def resetByte (p : Params) (a : Nat) : Byte := if h : a < 80 then p.font[a] else 0

/-- The listed byte at an address. -/
def memLookup : List Host.Cell → Nat → Option Byte
  | [], _ => none
  | (b, v) :: rest, a => if b = a then some v else memLookup rest a

/-- List a byte at an address, in rising order of addresses. -/
def memInsert (a : Nat) (v : Byte) : List Host.Cell → List Host.Cell
  | [] => [(a, v)]
  | (b, w) :: rest =>
    if a < b then (a, v) :: (b, w) :: rest
    else if a = b then (a, v) :: rest
    else (b, w) :: memInsert a v rest

/-- Take every entry of an address out of the list. -/
def memRemove (a : Nat) : List Host.Cell → List Host.Cell
  | [] => []
  | (b, w) :: rest => if b = a then memRemove a rest else (b, w) :: memRemove a rest

/-- The byte at an address (R70). -/
def memRead (p : Params) (m : List Host.Cell) (a : Nat) : Byte := (memLookup m a).getD (resetByte p a)

/-- Write the byte at an address, keeping the canonical form. The addresses are 0 to 4095 (R30): there is no byte
elsewhere to write, and every access of an instruction is range-checked before it is made (R68; log 11). -/
def memWrite (p : Params) (m : List Host.Cell) (a : Nat) (v : Byte) : List Host.Cell :=
  if a > 4095 then m
  else if v = resetByte p a then memRemove a m
  else memInsert a v m

/-- The canonical form from an address on: addresses rise strictly and are at most 4095, and no entry equals what an
unlisted address reads as. -/
def memWfFrom (p : Params) : Nat → List Host.Cell → Bool
  | _, [] => true
  | low, (a, v) :: rest => decide (low ≤ a) && decide (a ≤ 4095) && (v != resetByte p a) && memWfFrom p (a + 1) rest

/-- The canonical form of memory. -/
def memWf (p : Params) (m : List Host.Cell) : Bool := memWfFrom p 0 m

/-- `MemRead(a, 1)` of R9, after its range check. -/
def State.readByte (s : State) (a : Nat) : Byte := memRead s.params s.mem a

/-- `MemWrite(a, 1, v)` of R9, after its range check. -/
def State.writeByte (s : State) (a : Nat) (v : Byte) : State := { s with mem := memWrite s.params s.mem a v }

/-- Write bytes at rising addresses from `a` (R79). -/
def State.writeBytes (s : State) (a : Nat) : List Byte → State
  | [] => s
  | v :: vs => (s.writeByte a v).writeBytes (a + 1) vs

/-- `MemRead(a, 2)` of R9, after its range check: big-endian (R66). -/
def State.readWord (s : State) (a : Nat) : Word := wordOfBytes (s.readByte a) (s.readByte (a + 1))

/-- The access of `count` bytes from `first` lies in memory: its last address, the true sum, is at most 4095; an access of
no bytes always does (R68). -/
def inRange (first count : Nat) : Bool := count == 0 || decide (first + count - 1 ≤ 4095)

/-! ### Registers (R20 to R29) -/

/-- Read a general register: `V[r]`. -/
def State.getV (s : State) (r : Reg) : Byte := s.V[r]

/-- Write a general register: `V[r] <- v`. -/
def State.setV (s : State) (r : Reg) (v : Byte) : State := { s with V := s.V.set r v }

/-- `I <- v`. -/
def State.setI (s : State) (v : Word) : State := { s with I := v }

/-- `DT <- v`. -/
def State.setDT (s : State) (v : Byte) : State := { s with DT := v }

/-- `pc <- t`. -/
def State.setPc (s : State) (t : Word) : State := { s with pc := t }

/-- The default advance: `pc <- pc + 2`, mod 65536 (R25, R101). -/
def State.advance (s : State) : State := s.setPc (s.pc + 2)

/-- The advance of a conditional skip: by 4 when the condition is true, else by 2 (R25, 42_skips.md). -/
def State.skipIf (s : State) (c : Bool) : State := s.setPc (s.pc + if c then 4 else 2)

/-! ### The call stack (R27, R28) -/

/-- Push a return address on a stack that is not full. -/
def State.push (s : State) (a : Word) (h : s.sp.val < 16) : State :=
  { s with stack := s.stack.set s.sp.val a, sp := ⟨s.sp.val + 1, by omega⟩ }

/-- The newest entry of a stack that is not empty: `stack[sp-1]`. -/
def State.top (s : State) (h : 0 < s.sp.val) : Word := s.stack[s.sp.val - 1]'(by omega)

/-- Pop the newest entry; its value stays in the dead slot (R130). -/
def State.pop (s : State) : State := { s with sp := ⟨s.sp.val - 1, by omega⟩ }

/-! ### The framebuffer (R31, R32) -/

/-- The pixel in row `r` and column `c`: `FB[r][c]`. -/
def fbGet (fb : Vector (Vector Bool 64) 32) (r : Fin 32) (c : Fin 64) : Bool := fb[r][c]

/-- `FB[r][c] <- FB[r][c] ^ 1`. -/
def fbFlip (fb : Vector (Vector Bool 64) 32) (r : Fin 32) (c : Fin 64) : Vector (Vector Bool 64) 32 :=
  fb.set r (fb[r].set c (!fb[r][c]))

/-- The blank framebuffer. -/
def fbBlank : Vector (Vector Bool 64) 32 := Vector.replicate 32 (Vector.replicate 64 false)

/-- The pixel in row `r` and column `c` of the state's framebuffer. -/
def State.pixel (s : State) (r : Fin 32) (c : Fin 64) : Bool := fbGet s.FB r c

/-- Replace the framebuffer. -/
def State.setFB (s : State) (fb : Vector (Vector Bool 64) 32) : State := { s with FB := fb }

/-! ### The keys (R33) and the random input (R36) -/

/-- `KEY[k]`. -/
def State.keyDown (s : State) (k : Fin 16) : Bool := s.KEY.getLsbD k.val

/-- Write all sixteen key flags at once: `KEY[k] <- v[k]` (R207). -/
def State.setKEY (s : State) (v : BitVec 16) : State := { s with KEY := v }

/-- One draw of the random input, `rnd()`: the free value of this draw (R36, R161; log 3). -/
def State.rnd (s : State) : Byte := Config.rnd s.draws

/-- The draw has been consumed: the next one is another free value. -/
def State.countDraw (s : State) : State := { s with draws := s.draws + 1 }

/-! ### The host's side (R39, R41) -/

/-- The commands that still wait. -/
def State.setCommands (s : State) (cs : List Command) : State := { s with commands := cs }

/-- The result of a `LOAD` on the port `load_status`. -/
def State.setLoadStatus (s : State) (l : LoadStatus) : State := { s with loadStatus := some l }

/-! ### Faults (R190 to R197) -/

/-- The code of a fault cause (R190). -/
def faultCode : FaultCause → Nat
  | .none => 0
  | .stackOverflow => 1
  | .stackUnderflow => 2
  | .memoryOutOfRange => 3
  | .keyIndexOutOfRange => 4

/-- Taking a fault, `raise F(info)`, the same for all four causes (R194): the latch and `fault_info` are written, with the
pc of the faulting instruction, and nothing else, not even pc. There is no vector, no saved state and no return (R197):
`EXEC` is inert from here on (R196), until `RESET` or `LOAD`. -/
def State.raise (s : State) (cause : FaultCause) (opcode : Option Word) (detail : FaultDetail) : State :=
  { s with fault := cause, faultInfo := some { pc := s.pc, opcode := opcode, detail := detail } }

/-- The only way out of the faulted state, with everything else back at its reset value (R197, R230). The parameters are
the machine's, the random source is not reseeded (R42), and the host's later commands still wait (log 10). -/
def State.toReset (s : State) : State :=
  { State.reset with params := s.params, draws := s.draws, commands := s.commands }

/-- `emit UnimplementedOpcode(pc, op)`: the event and the sticky bit (R98, R198). -/
def State.emitUnimplemented (s : State) (op : Word) : State :=
  { s with diagSeen := true, diagEvents := { pc := s.pc, op := op } :: s.diagEvents }

end Sys2Proof.Machine
end

