-- ==== Sys2Proof/Machine/Commands.lean ====
section
/-! DEFINITION. Sys2Proof/Machine/Commands.lean: the fetch of `EXEC` (R90), the step of an `UNIMPL` word (R98), and the
host's commands `TICK`, `KEYS`, `RESET`, `LOAD` (R40). -/

namespace Sys2Proof.Machine

/-- The fetch (R90): the word at pc, big-endian; none when `pc + 1`, the true sum, is above 4095. -/
def State.fetchWord (s : State) : Option Word :=
  if inRange s.pc.toNat 2 then some (s.readWord s.pc.toNat) else none

/-- The fault of a fetch out of range: no opcode was fetched (R90, R190). -/
def State.raiseFetch (s : State) : State := s.raise .memoryOutOfRange none (.access s.pc.toNat 2)

/-- The `EXEC` of a word that is none of the 34 instructions (R98, R198): not a fault. -/
def execUnimplemented (op : Word) (s : State) : Result := .next (s.emitUnimplemented op).advance

/-- `TICK` (R204): one decrement, with stop at zero. -/
def cmdTick (s : State) : State := if s.DT.toNat > 0 then s.setDT (s.DT - 1) else s

/-- `KEYS(k)` (R207): all sixteen flags at once. -/
def cmdKeys (k : BitVec 16) (s : State) : State := s.setKEY k

/-- `RESET` (R230). -/
def cmdReset (s : State) : State := s.toReset

/-- The copy of `LOAD`, after the reset: the ROM's bytes from 0x200 on (R231). -/
def State.copyRom (s : State) (rom : List Byte) : State :=
  (s.writeBytes progBase rom).setLoadStatus .ok

/-- `LOAD(rom)` (R231, R232): the reset comes first, always; a ROM longer than `ROM_MAX` then leaves the reset state. -/
def cmdLoad (rom : List Byte) (s : State) : State :=
  if rom.length > romMaxBytes s.params.romMax then s.toReset.setLoadStatus .tooLarge
  else s.toReset.copyRom rom

/-- Place an instruction's bytes at pc, the high byte first (R66). -/
def State.placeWord (s : State) (op : Word) : State :=
  s.writeBytes s.pc.toNat [highByte op, lowByte op]

/-- The state whose next step fetches a word: its bytes at pc, no command waiting and no fault latched, since the next step
fetches only when it is an `EXEC` and the latch is clear (log 2). -/
def State.placeNext (s : State) (op : Word) : State :=
  { s.placeWord op with commands := [], fault := .none, faultInfo := none }

end Sys2Proof.Machine
end

