-- ==== Sys2Proof/Machine/Flags.lean ====
section
/-! DEFINITION. Sys2Proof/Machine/Flags.lean: the flag computations of 43_alu.md and 40_display.md, and the order of the
flag and the result (R163). VF is the only flag (R21). -/

namespace Sys2Proof.Machine

/-- A flag as the value of VF: 1 or 0. -/
def flagByte (c : Bool) : Byte := if c then 1 else 0

/-- The carry of `a + b`: the true sum is above 255 (R156). -/
def carryFlag (a b : Byte) : Byte := flagByte (decide (a.toNat + b.toNat > 255))

/-- The subtract flag of `a - b`: `a > b`, strictly (R157, R159). -/
def greaterFlag (a b : Byte) : Byte := flagByte (decide (a.toNat > b.toNat))

/-- The bit a right shift by one moves out: bit 0 (R158). -/
def lowBitFlag (a : Byte) : Byte := a &&& 1

/-- The bit a left shift by one moves out: bit 7 (R160). -/
def highBitFlag (a : Byte) : Byte := a >>> 7

/-- Write a flag, computed from the registers before the instruction, to VF, and the result of `op` to `V[x]`, in the
order of the parameter `VF_ORDER` (R163): `flag_first` writes the flag and then applies `op` to the registers as they then
are; `result_last` writes the result first and the flag over it. -/
def State.writeFlagged (s : State) (x : Reg) (flag : Byte) (op : State → Byte) : State :=
  match s.params.vfOrder with
  | .flagFirst => (s.setV VF flag).setV x (op (s.setV VF flag))
  | .resultLast => (s.setV x (op s)).setV VF flag

end Sys2Proof.Machine
end

