-- ==== Sys2Proof/Machine/Operands.lean ====
section
/-! DEFINITION. Sys2Proof/Machine/Operands.lean: the operand forms (R94, R162) and the values computed from them. -/

namespace Sys2Proof.Machine

/-- `zext_16(nnn)`: the address as a 16-bit number (R94). -/
def addrWord (nnn : Addr) : Word := nnn.setWidth 16

/-- `zext_16` of a register's value (R94). -/
def byteWord (v : Byte) : Word := v.setWidth 16

/-- All register indices, rising. -/
def allRegs : List Reg := [0, 1, 2, 3, 4, 5, 6, 7, 8, 9, 10, 11, 12, 13, 14, 15]

/-- The registers `V[0]` to `V[x]`, rising: the field `x` as a count (R174, R175). -/
def regsUpTo (x : Reg) : List Reg := allRegs.take (x.val + 1)

/-- The values of `V[0]` to `V[x]`. -/
def State.regBytes (s : State) (x : Reg) : List Byte := (regsUpTo x).map s.getV

/-- `V[k] <- mem[a + k]` for each `k` of the list, in its order (R175). -/
def State.loadRegs (s : State) (a : Nat) : List Reg → State
  | [] => s
  | k :: ks => (s.setV k (s.readByte (a + k.val))).loadRegs a ks

/-- The address of the font glyph of a value: the whole value times 5, exact (R172). -/
def glyphAddress (v : Byte) : Word := 5 * byteWord v

/-- The three decimal digits of a value, hundreds first (R173). -/
def bcdDigits (v : Byte) : List Byte :=
  [BitVec.ofNat 8 (v.toNat / 100), BitVec.ofNat 8 (v.toNat / 10 % 10), BitVec.ofNat 8 (v.toNat % 10)]

/-- A register's value as a key code: none when it is 16 to 255, and no masking (R144, R195). -/
def keyIndex (v : Byte) : Option (Fin 16) := if h : v.toNat < 16 then some ⟨v.toNat, h⟩ else none

/-- The key scan of `Fx0A` over a list of key codes: a later key that is down overwrites an earlier one (R181). -/
def State.lastKeyDown (s : State) (found : Option (Fin 16)) : List (Fin 16) → Option (Fin 16)
  | [] => found
  | k :: ks => s.lastKeyDown (if s.keyDown k then some k else found) ks

/-! ### The sprite (R121) -/

/-- The sprite's rows: the `n` bytes from `a` (R79, R121). -/
def State.spriteRows (s : State) (a : Nat) : Nat → List Byte
  | 0 => []
  | n + 1 => s.readByte a :: s.spriteRows (a + 1) n

/-- A framebuffer being drawn on, with the collision seen so far. -/
structure Canvas where
  fb  : Vector (Vector Bool 64) 32
  hit : Bool
  deriving DecidableEq, Repr

/-- The framebuffer row of sprite row `row`: `(y0 + row) mod 32`, with `y0` the value mod 32 (R121, C3). -/
def targetRow (y : Byte) (row : Nat) : Fin 32 := ⟨(y.toNat % 32 + row) % 32, Nat.mod_lt _ (by decide)⟩

/-- The framebuffer column of sprite column `col`: `(x0 + col) mod 64`, with `x0` the value mod 64 (R121). -/
def targetCol (x : Byte) (col : Nat) : Fin 64 := ⟨(x.toNat % 64 + col) % 64, Nat.mod_lt _ (by decide)⟩

/-- One sprite bit: a 0 touches nothing; a 1 toggles its pixel and collides when that was 1 (R121). -/
def drawBit (c : Canvas) (bit : Bool) (row : Fin 32) (col : Fin 64) : Canvas :=
  if bit then { fb := fbFlip c.fb row col, hit := c.hit || fbGet c.fb row col } else c

/-- One sprite row: bit 7 is the leftmost pixel (R121). -/
def drawRow (c : Canvas) (b : Byte) (row : Fin 32) (x : Byte) : Canvas :=
  [0, 1, 2, 3, 4, 5, 6, 7].foldl (fun c col => drawBit c (b.getLsbD (7 - col)) row (targetCol x col)) c

/-- The sprite rows from number `row` on (R121). -/
def drawRows (c : Canvas) (x y : Byte) (row : Nat) : List Byte → Canvas
  | [] => c
  | b :: bs => drawRows (drawRow c b (targetRow y row) x) x y (row + 1) bs

end Sys2Proof.Machine
end

