-- ==== Sys2Proof/Machine/Alu.lean ====
section
/-! DEFINITION. Sys2Proof/Machine/Alu.lean: `6xnn`, `7xnn`, `8xy0` to `8xy7`, `8xyE`, `Cxnn` (43_alu.md). -/

namespace Sys2Proof.Machine

/-- `6xnn` (R150). -/
def execLdImm (x : Reg) (nn : Byte) (s : State) : Result := .next (s.setV x nn).advance

/-- `7xnn` (R151): no flag. -/
def execAddImm (x : Reg) (nn : Byte) (s : State) : Result := .next (s.setV x (s.getV x + nn)).advance

/-- `8xy0` (R152). -/
def execLdReg (x y : Reg) (s : State) : Result := .next (s.setV x (s.getV y)).advance

/-- `8xy1` (R153): VF is not a flag here. -/
def execOrReg (x y : Reg) (s : State) : Result := .next (s.setV x (s.getV x ||| s.getV y)).advance

/-- `8xy2` (R154): VF is not a flag here. -/
def execAndReg (x y : Reg) (s : State) : Result := .next (s.setV x (s.getV x &&& s.getV y)).advance

/-- `8xy3` (R155): VF is not a flag here. -/
def execXorReg (x y : Reg) (s : State) : Result := .next (s.setV x (s.getV x ^^^ s.getV y)).advance

/-- `8xy4` (R156): VF is the carry. -/
def execAddReg (x y : Reg) (s : State) : Result :=
  .next (s.writeFlagged x (carryFlag (s.getV x) (s.getV y)) (fun t => t.getV x + t.getV y)).advance

/-- `8xy5` (R157): VF is 1 when `V[x] > V[y]`. -/
def execSubReg (x y : Reg) (s : State) : Result :=
  .next (s.writeFlagged x (greaterFlag (s.getV x) (s.getV y)) (fun t => t.getV x - t.getV y)).advance

/-- `8xy6` (R158): VF is the old bit 0; `y` is ignored. -/
def execShr (x _y : Reg) (s : State) : Result :=
  .next (s.writeFlagged x (lowBitFlag (s.getV x)) (fun t => t.getV x >>> 1)).advance

/-- `8xy7` (R159): VF is 1 when `V[y] > V[x]`. -/
def execSubn (x y : Reg) (s : State) : Result :=
  .next (s.writeFlagged x (greaterFlag (s.getV y) (s.getV x)) (fun t => t.getV y - t.getV x)).advance

/-- `8xyE` (R160): VF is the old bit 7; `y` is ignored. -/
def execShl (x _y : Reg) (s : State) : Result :=
  .next (s.writeFlagged x (highBitFlag (s.getV x)) (fun t => t.getV x <<< 1)).advance

/-- `Cxnn` (R161): the random byte is a free value (log 3). -/
def execRnd (x : Reg) (nn : Byte) (s : State) : Result := .next (s.countDraw.setV x (nn &&& s.rnd)).advance

end Sys2Proof.Machine
end

