-- ==== Sys2Proof/Machine/Control.lean ====
section
/-! DEFINITION. Sys2Proof/Machine/Control.lean: `00EE`, `1nnn`, `2nnn`, `Bnnn` (41_control_flow.md). -/

namespace Sys2Proof.Machine

/-- `00EE` (R130): the popped entry is the address of the call; the return resumes two bytes after it. -/
def execRet (s : State) : Result :=
  if h : 0 < s.sp.val then .next (s.pop.setPc (s.top h + 2))
  else .next (s.raise .stackUnderflow (some (encode .ret)) .nothing)

/-- `1nnn` (R131). -/
def execJp (nnn : Addr) (s : State) : Result := .next (s.setPc (addrWord nnn))

/-- `2nnn` (R132): pushes its own address, not that of the next instruction. -/
def execCall (nnn : Addr) (s : State) : Result :=
  if h : s.sp.val < 16 then .next ((s.push s.pc h).setPc (addrWord nnn))
  else .next (s.raise .stackOverflow (some (encode (.call nnn))) .nothing)

/-- `Bnnn` (R133): always V0; the sum is not reduced to 12 bits. -/
def execJpV0 (nnn : Addr) (s : State) : Result := .next (s.setPc (addrWord nnn + byteWord (s.getV 0)))

end Sys2Proof.Machine
end

