-- ==== Sys2Proof/Machine/Display.lean ====
section
/-! DEFINITION. Sys2Proof/Machine/Display.lean: `00E0` and `Dxyn` (40_display.md). -/

namespace Sys2Proof.Machine

/-- `00E0` (R120). -/
def execCls (s : State) : Result := .next (s.setFB fbBlank).advance

/-- What `Dxyn` makes of the framebuffer, and whether it collides: the coordinates are the registers' values before VF is
written (R121 steps 1 and 4, D11). -/
def State.spriteCanvas (s : State) (x y : Reg) (n : Fin 16) : Canvas :=
  drawRows { fb := s.FB, hit := false } (s.getV x) (s.getV y) 0 (s.spriteRows s.I.toNat n.val)

/-- `Dxyn` (R121): the range check of all rows comes first; VF is written once, with the collision of the whole draw, which
is what the spec's 0 and later 1 amount to (log 13). -/
def execDrw (x y : Reg) (n : Fin 16) (s : State) : Result :=
  if inRange s.I.toNat n.val then
    .next (((s.setFB (s.spriteCanvas x y n).fb).setV VF (flagByte (s.spriteCanvas x y n).hit)).advance)
  else .next (s.raise .memoryOutOfRange (some (encode (.drw x y n))) (.access s.I.toNat n.val))

end Sys2Proof.Machine
end

