-- ==== Sys2Proof/Machine/IndexMemory.lean ====
section
/-! DEFINITION. Sys2Proof/Machine/IndexMemory.lean: `Annn`, `Fx1E`, `Fx29`, `Fx33`, `Fx55`, `Fx65` (44_index_memory.md). -/

namespace Sys2Proof.Machine

/-- `Annn` (R170). -/
def execLdI (nnn : Addr) (s : State) : Result := .next (s.setI (addrWord nnn)).advance

/-- `Fx1E` (R171): mod 65536, no flag. -/
def execAddI (x : Reg) (s : State) : Result := .next (s.setI (s.I + byteWord (s.getV x))).advance

/-- `Fx29` (R172). -/
def execLdF (x : Reg) (s : State) : Result := .next (s.setI (glyphAddress (s.getV x))).advance

/-- `Fx33` (R173). -/
def execLdB (x : Reg) (s : State) : Result :=
  if inRange s.I.toNat 3 then .next (s.writeBytes s.I.toNat (bcdDigits (s.getV x))).advance
  else .next (s.raise .memoryOutOfRange (some (encode (.ldB x))) (.access s.I.toNat 3))

/-- `Fx55` (R174): `I` is unchanged. -/
def execStore (x : Reg) (s : State) : Result :=
  if inRange s.I.toNat (x.val + 1) then .next (s.writeBytes s.I.toNat (s.regBytes x)).advance
  else .next (s.raise .memoryOutOfRange (some (encode (.store x))) (.access s.I.toNat (x.val + 1)))

/-- `Fx65` (R175): `I` is unchanged. -/
def execLoad (x : Reg) (s : State) : Result :=
  if inRange s.I.toNat (x.val + 1) then .next (s.loadRegs s.I.toNat (regsUpTo x)).advance
  else .next (s.raise .memoryOutOfRange (some (encode (.load x))) (.access s.I.toNat (x.val + 1)))

end Sys2Proof.Machine
end

