-- ==== Sys2Proof/Machine/Skips.lean ====
section
/-! DEFINITION. Sys2Proof/Machine/Skips.lean: `3xnn`, `4xnn`, `5xy0`, `9xy0`, `Ex9E`, `ExA1` (42_skips.md). -/

namespace Sys2Proof.Machine

/-- `3xnn` (R140). -/
def execSeImm (x : Reg) (nn : Byte) (s : State) : Result := .next (s.skipIf (s.getV x == nn))

/-- `4xnn` (R141). -/
def execSneImm (x : Reg) (nn : Byte) (s : State) : Result := .next (s.skipIf (s.getV x != nn))

/-- `5xy0` (R142). -/
def execSeReg (x y : Reg) (s : State) : Result := .next (s.skipIf (s.getV x == s.getV y))

/-- `9xy0` (R143). -/
def execSneReg (x y : Reg) (s : State) : Result := .next (s.skipIf (s.getV x != s.getV y))

/-- `Ex9E` (R144): a key code above 15 is a fault (R195). -/
def execSkp (x : Reg) (s : State) : Result :=
  match keyIndex (s.getV x) with
  | some k => .next (s.skipIf (s.keyDown k))
  | none => .next (s.raise .keyIndexOutOfRange (some (encode (.skp x))) (.key (s.getV x)))

/-- `ExA1` (R145): a key code above 15 is a fault (R195). -/
def execSknp (x : Reg) (s : State) : Result :=
  match keyIndex (s.getV x) with
  | some k => .next (s.skipIf (!s.keyDown k))
  | none => .next (s.raise .keyIndexOutOfRange (some (encode (.sknp x))) (.key (s.getV x)))

end Sys2Proof.Machine
end

