-- ==== Sys2Proof/Machine/TimerKey.lean ====
section
/-! DEFINITION. Sys2Proof/Machine/TimerKey.lean: `Fx07`, `Fx0A`, `Fx15`, `Fx18` (45_timer_key.md). -/

namespace Sys2Proof.Machine

/-- `Fx07` (R180). -/
def execLdVxDT (x : Reg) (s : State) : Result := .next (s.setV x s.DT).advance

/-- `Fx0A` (R181): the highest key code that is down; with none down nothing changes, not even pc (R37). -/
def execLdVxK (x : Reg) (s : State) : Result :=
  match s.lastKeyDown none allRegs with
  | some k => .next (s.setV x (BitVec.ofNat 8 k.val)).advance
  | none => .next s

/-- `Fx15` (R182). -/
def execLdDTVx (x : Reg) (s : State) : Result := .next (s.setDT (s.getV x)).advance

/-- `Fx18` (R183): no operation; there is no sound timer. -/
def execLdSTVx (_x : Reg) (s : State) : Result := .next s.advance

end Sys2Proof.Machine
end

