-- ==== Sys2Proof/Machine/Run.lean ====
section
/-! DEFINITION. Sys2Proof/Machine/Run.lean: the whole `EXEC` command, and one command carried out (R40, R201). -/

namespace Sys2Proof.Machine

/-- `EXEC`: with the fault latch set nothing at all (R196); else fetch (R90), decode (R95), and the instruction's own rule
or that of `UNIMPL` (R98), in this order of priority (R201). -/
def execCommand (s : State) : Host.Outcome State Fault Refusal :=
  if s.fault = .none then
    match s.fetchWord with
    | none => .next s.raiseFetch
    | some op =>
      match decodeWord op with
      | .ok i => exec i s
      | .error _ => execUnimplemented op s
  else .next s

/-- One command, carried out (R40). -/
def runCommand (c : Command) (s : State) : Host.Outcome State Fault Refusal :=
  match c with
  | .exec => execCommand s
  | .tick => .next (cmdTick s)
  | .keys k => .next (cmdKeys k s)
  | .reset => .next (cmdReset s)
  | .load rom => .next (cmdLoad rom s)

end Sys2Proof.Machine
end

