-- ==== Sys2Proof/Machine/Step.lean ====
section
/-! DEFINITION. Sys2Proof/Machine/Step.lean: one step of the core, which is one command (R40, R41), and the placing of an
instruction where the next step fetches it. -/

namespace Sys2Proof.Machine

/-- One step: the oldest command of the host that waits; with none waiting, an `EXEC` (R41; log 1). -/
def step (s : State) : Host.Outcome State Fault Refusal :=
  match s.commands with
  | [] => execCommand s
  | c :: rest => runCommand c (s.setCommands rest)

/-- The state with the instruction word whose low `nbits` bits are those of `w`, the bits above them zero, where the next
step fetches it (log 2). -/
def State.withFetchWord (s : State) (nbits w : Nat) : State := s.placeNext (BitVec.ofNat 16 (w % 2 ^ nbits))

end Sys2Proof.Machine
end

