-- ==== Sys2Proof/Safety.lean ====
section
/-! DEFINITION. Sys2Proof/Safety.lean: the states of R236 and the invariants of R43, in whose terms statements speak. -/

namespace Sys2Proof.Machine

/-- FAULTED (R236): the latch is set; never a good end. -/
def State.Faulted (s : State) : Prop := s.fault ≠ .none

/-- The instruction the next `EXEC` finds at pc, when it finds one (R90, R95). -/
def State.AtPc (s : State) (i : Instr) : Prop :=
  s.pc.toNat ≤ 4094 ∧ decode [s.readByte s.pc.toNat, s.readByte (s.pc.toNat + 1)] = .ok (i, [])

/-- PARKED (R236): the instruction at pc is a jump to itself. -/
def State.Parked (s : State) : Prop := ∃ nnn, s.AtPc (.jp nnn) ∧ nnn.toNat = s.pc.toNat

/-- WAITING (R236): `Fx0A` at pc with no key down; not an end. -/
def State.Waiting (s : State) : Prop := ∃ x, s.AtPc (.ldVxK x) ∧ s.KEY = 0

/-- Every live stack entry is at most 4094 (R43). -/
def State.LiveEntriesFetchable (s : State) : Prop := ∀ k : Fin 16, k.val < s.sp.val → s.stack[k].toNat ≤ 4094

/-- The invariant every step keeps: memory is in its canonical form, a live stack entry is an address a fetch can use
(R43), `fault_info` stands exactly when a fault is latched (R34), and `diag_seen` says whether an event was put out since
the last reset (R35). That `sp` is at most 16 and every register within its width (R43) is in the types of the fields. -/
def State.Inv (s : State) : Prop :=
  memWf s.params s.mem = true
  ∧ s.LiveEntriesFetchable
  ∧ (s.fault = .none ↔ s.faultInfo = none)
  ∧ (s.diagSeen = true ↔ s.diagEvents ≠ [])

/-! ### Frames -/

/-- Every byte of memory reads as before. -/
def SameMemory (s t : State) : Prop := ∀ a, t.readByte a = s.readByte a

/-- From `s` to `t` only pc and the general registers of the list may change: every other field is equal, every other
register and every byte of memory reads as before. -/
def OnlyRegistersChange (xs : List Reg) (s t : State) : Prop :=
  t = { s with V := t.V, pc := t.pc } ∧ (∀ r, r ∉ xs → t.getV r = s.getV r) ∧ SameMemory s t

/-! ### Faults -/

/-- The one execution check of each instruction (R68, R190, R201): the fault it takes in a state, and what the fault
records besides pc and opcode; none where the instruction has its effect. -/
def faultOf (i : Instr) (s : State) : Option (FaultCause × FaultDetail) :=
  match i with
  | .call _ => if s.sp.val = 16 then some (.stackOverflow, .nothing) else none
  | .ret => if s.sp.val = 0 then some (.stackUnderflow, .nothing) else none
  | .skp x | .sknp x => if (s.getV x).toNat > 15 then some (.keyIndexOutOfRange, .key (s.getV x)) else none
  | .drw _ _ n =>
    if n.val > 0 ∧ s.I.toNat + n.val - 1 > 4095 then some (.memoryOutOfRange, .access s.I.toNat n.val) else none
  | .ldB _ => if s.I.toNat + 2 > 4095 then some (.memoryOutOfRange, .access s.I.toNat 3) else none
  | .store x | .load x =>
    if s.I.toNat + x.val > 4095 then some (.memoryOutOfRange, .access s.I.toNat (x.val + 1)) else none
  | .cls | .jp _ | .seImm _ _ | .sneImm _ _ | .seReg _ _ | .ldImm _ _ | .addImm _ _ | .ldReg _ _ | .orReg _ _
  | .andReg _ _ | .xorReg _ _ | .addReg _ _ | .subReg _ _ | .shr _ _ | .subn _ _ | .shl _ _ | .sneReg _ _ | .ldI _
  | .jpV0 _ | .rnd _ _ | .ldVxDT _ | .ldVxK _ | .ldDTVx _ | .ldSTVx _ | .addI _ | .ldF _ => none

end Sys2Proof.Machine
end

