-- ==== Sys2Proof/Certificates/Slice0/Obligations.lean ====
section
/-! DEFINITION. Sys2Proof/Certificates/Slice0/Obligations.lean: the statements for the provers. Each docstring names the
rules of spec/ the statement formalises, and in brackets the spec's own decisions D<n> (92_eei_decisions.md) it rests on. A
statement about `exec` is about the body of an `EXEC` after fetch and decode (R10); `StepRunsDecodedInstruction` carries it
to a step. -/

open Sys2Proof Sys2Proof.Machine

/-! ### Encoding (30_encoding.md) -/

/-- R92, R93, R96: no operand bit of an encoding is dropped. -/
def Obligations.DecodeEncodeRoundTrip : Prop :=
  ∀ i : Instr, decodeWord (encode i) = .ok i ∧ decode (encodeBytes i) = .ok (i, [])

/-- R91 to R93: a word has one meaning; the instruction read from it encodes to that word and no other. -/
def Obligations.EncodeDecodeRoundTrip : Prop :=
  ∀ (w : Word) (i : Instr), decodeWord w = .ok i → encode i = w

/-- R95, R96 (D9): the decoding procedure and the opcode map agree on every word, and no word selects two rows. -/
def Obligations.DecodeFollowsOpcodeMap : Prop :=
  ∀ w : Word,
    (∀ i, decodeWord w = .ok i → i.row ∈ opcodeTable ∧ i.row.selects w = true)
    ∧ (∀ r ∈ opcodeTable, r.selects w = true → ∃ i, decodeWord w = .ok i ∧ i.row = r)

/-- R97 to R99 (D9): the words that are no instruction, family by family, and the decoder's answer for them. -/
def Obligations.UnimplementedSpaceByFamily : Prop :=
  ∀ w : Word,
    (decodeWord w = .error (.unimplemented w) ↔
      (w.toNat / 4096 = 0x0 ∧ w.toNat ≠ 0x00E0 ∧ w.toNat ≠ 0x00EE)
      ∨ (w.toNat / 4096 = 0x5 ∧ w.toNat % 16 ≠ 0)
      ∨ (w.toNat / 4096 = 0x8 ∧ w.toNat % 16 ∈ [8, 9, 0xA, 0xB, 0xC, 0xD, 0xF])
      ∨ (w.toNat / 4096 = 0x9 ∧ w.toNat % 16 ≠ 0)
      ∨ (w.toNat / 4096 = 0xE ∧ w.toNat % 256 ∉ [0x9E, 0xA1])
      ∨ (w.toNat / 4096 = 0xF ∧ w.toNat % 256 ∉ [0x07, 0x0A, 0x15, 0x18, 0x1E, 0x29, 0x33, 0x55, 0x65]))
    ∧ ∀ e, decodeWord w = .error e → e = .unimplemented w

/-- R96: words written out from the encodings, one at least of each family of the opcode table. -/
def Obligations.SampleWordsDecode : Prop :=
  decodeWord 0x00E0 = .ok .cls ∧ decodeWord 0xD12F = .ok (.drw 1 2 0xF)
  ∧ decodeWord 0x00EE = .ok .ret ∧ decodeWord 0x1ABC = .ok (.jp 0xABC) ∧ decodeWord 0xB234 = .ok (.jpV0 0x234)
  ∧ decodeWord 0x332A = .ok (.seImm 3 0x2A) ∧ decodeWord 0x9120 = .ok (.sneReg 1 2) ∧ decodeWord 0xE4A1 = .ok (.sknp 4)
  ∧ decodeWord 0x7105 = .ok (.addImm 1 0x05) ∧ decodeWord 0x8F17 = .ok (.subn 0xF 1) ∧ decodeWord 0xC30F = .ok (.rnd 3 0x0F)
  ∧ decodeWord 0xA2F0 = .ok (.ldI 0x2F0) ∧ decodeWord 0xF433 = .ok (.ldB 4) ∧ decodeWord 0xF265 = .ok (.load 2)
  ∧ decodeWord 0xF507 = .ok (.ldVxDT 5) ∧ decodeWord 0xF60A = .ok (.ldVxK 6)

/-! ### A step (R40, R41, R90, R196, R201) -/

/-- R90, R95, R201 (D21): with no fault latched, an `EXEC` whose two bytes at pc decode to an instruction is `exec` of it.
Whether the `EXEC` is a waiting command of the host or the step's own, with none waiting, is the model's choice (log 1).
-/
def Obligations.StepRunsDecodedInstruction : Prop :=
  ∀ (s : State) (i : Instr), s.fault = .none → s.AtPc i →
    (s.commands = [] → step s = exec i s)
    ∧ (∀ rest, s.commands = .exec :: rest → step s = exec i { s with commands := rest })

/-- The model's choice, no rule of the spec (log 1): with no command of the host waiting, a step is an `EXEC`. -/
def Obligations.EmptyQueueStepIsExec : Prop :=
  ∀ s : State, s.commands = [] → step s = step { s with commands := [.exec] }

/-- R90 (D6): the fetch of an `EXEC`, its bounds check and its fault; the word is `mem[pc] * 256 + mem[pc+1]`. -/
def Obligations.ExecFetchesBigEndianWord : Prop :=
  ∀ (s : State) (rest : List Command), s.commands = .exec :: rest →
    (s.fault ≠ .none → step s = .next { s with commands := rest })
    ∧ (s.fault = .none → s.pc.toNat + 1 > 4095 →
        step s = .next { s with
          commands := rest
          fault := .memoryOutOfRange, faultInfo := some { pc := s.pc, opcode := none, detail := .access s.pc.toNat 2 } })
    ∧ (s.fault = .none → s.pc.toNat + 1 ≤ 4095 →
        ∃ op : Word, op.toNat = (s.readByte s.pc.toNat).toNat * 256 + (s.readByte (s.pc.toNat + 1)).toNat
          ∧ step s = match decodeWord op with
            | .ok i => exec i { s with commands := rest }
            | .error _ => execUnimplemented op { s with commands := rest })

/-- R98 (D8): a word that selects no row of R96 puts out the diagnostic, sets `diag_seen`, advances pc by 2, and changes
nothing else. -/
def Obligations.UnimplementedWordAdvances : Prop :=
  ∀ (s : State) (rest : List Command) (op : Word), s.commands = .exec :: rest → s.fault = .none → s.pc.toNat ≤ 4094 →
    op.toNat = (s.readByte s.pc.toNat).toNat * 256 + (s.readByte (s.pc.toNat + 1)).toNat →
    (∀ r ∈ opcodeTable, r.selects op = false) →
    step s = .next { s with
      commands := rest
      diagSeen := true, diagEvents := { pc := s.pc, op := op } :: s.diagEvents, pc := s.pc + 2 }

/-- R196 (D5 and D14): with a fault latched `EXEC` changes nothing, while `TICK` and `KEYS` are carried out. -/
def Obligations.FaultedExecIsInert : Prop :=
  ∀ (s : State) (rest : List Command), s.fault ≠ .none →
    (s.commands = .exec :: rest → step s = .next { s with commands := rest })
    ∧ (s.commands = .tick :: rest →
        ∃ t, step s = .next t ∧ t = { s with DT := t.DT, commands := rest } ∧ t.DT.toNat = s.DT.toNat - 1)
    ∧ (∀ k, s.commands = .keys k :: rest → step s = .next { s with KEY := k, commands := rest })

/-- R204: `TICK` takes one from `DT` while it is above 0, leaves 0 at 0, and touches nothing else. -/
def Obligations.TickDecrementsToZero : Prop :=
  ∀ (s : State) (rest : List Command), s.commands = .tick :: rest →
    ∃ t, step s = .next t ∧ t = { s with DT := t.DT, commands := rest }
      ∧ (s.DT.toNat > 0 → t.DT.toNat = s.DT.toNat - 1)
      ∧ (s.DT.toNat = 0 → t.DT.toNat = 0)

/-- R207 (D1): `KEYS(k)` sets every key flag from its bit of `k` and changes nothing else. -/
def Obligations.KeysReplaceAllFlags : Prop :=
  ∀ (s : State) (k : BitVec 16) (rest : List Command), s.commands = .keys k :: rest →
    ∃ t, step s = .next t ∧ t = { s with KEY := t.KEY, commands := rest } ∧ ∀ j : Fin 16, t.keyDown j = k.getLsbD j.val

/-- R230 (D3): `RESET` puts every element at its reset value, and does not start the draws of the random input afresh. -/
def Obligations.ResetRestoresEveryElement : Prop :=
  ∀ (s : State) (rest : List Command), s.commands = .reset :: rest →
    ∃ t, step s = .next t
      ∧ (∀ k : Fin 80, t.readByte k.val = s.params.font[k]) ∧ (∀ a, 80 ≤ a → a ≤ 4095 → t.readByte a = 0)
      ∧ t.pc = 0x200 ∧ t.sp.val = 0 ∧ (∀ k : Fin 16, t.stack[k] = 0) ∧ (∀ r, t.getV r = 0) ∧ t.I = 0 ∧ t.DT = 0
      ∧ (∀ r c, t.pixel r c = false) ∧ (∀ k, t.keyDown k = false)
      ∧ t.fault = .none ∧ t.faultInfo = none ∧ t.diagSeen = false
      ∧ t.draws = s.draws

/-- R42, R233 (D2 and D3): the reset state's values. Two clauses are not R42's. The three font bytes are those of the default
of the parameter `FONT`, the table of R63, which is PRESUMED (log 12). R42 gives zero at 80 to 4095; that the byte-level read
gives 0 above 4095 too, where the machine has no byte, is the model's choice (log 11). -/
def Obligations.ResetStateHasSpecValues : Prop :=
  State.reset.readByte 0 = 0xF0 ∧ State.reset.readByte 5 = 0x20 ∧ State.reset.readByte 79 = 0x80
  ∧ (∀ a, 80 ≤ a → State.reset.readByte a = 0)
  ∧ State.reset.pc = 0x200 ∧ State.reset.sp.val = 0 ∧ (∀ k : Fin 16, State.reset.stack[k] = 0)
  ∧ (∀ r, State.reset.getV r = 0) ∧ State.reset.I = 0 ∧ State.reset.DT = 0
  ∧ (∀ r c, State.reset.pixel r c = false) ∧ (∀ k, State.reset.keyDown k = false)
  ∧ State.reset.fault = .none ∧ State.reset.faultInfo = none ∧ State.reset.diagSeen = false

/-- R231 (D3 and D4): `LOAD` resets, checks the size against `ROM_MAX`, and copies the ROM to 0x200 on success; every
element but the program bytes is then at its reset value. -/
def Obligations.LoadCopiesRomAfterReset : Prop :=
  ∀ (s : State) (rom : List Byte) (rest : List Command), s.commands = .load rom :: rest →
    ∃ t, step s = .next t
      ∧ (rom.length ≤ romMaxBytes s.params.romMax →
          t.loadStatus = some .ok
          ∧ (∀ (k : Nat) (h : k < rom.length), t.readByte (0x200 + k) = rom[k])
          ∧ (∀ a, 0x200 + rom.length ≤ a → a ≤ 4095 → t.readByte a = 0))
      ∧ (rom.length > romMaxBytes s.params.romMax →
          t.loadStatus = some .tooLarge ∧ (∀ a, 0x200 ≤ a → a ≤ 4095 → t.readByte a = 0))
      ∧ (∀ k : Fin 80, t.readByte k.val = s.params.font[k]) ∧ (∀ a, 80 ≤ a → a < 0x200 → t.readByte a = 0)
      ∧ t.pc = 0x200 ∧ t.sp.val = 0 ∧ (∀ k : Fin 16, t.stack[k] = 0) ∧ (∀ r, t.getV r = 0) ∧ t.I = 0 ∧ t.DT = 0
      ∧ (∀ r c, t.pixel r c = false) ∧ (∀ k, t.keyDown k = false)
      ∧ t.fault = .none ∧ t.faultInfo = none ∧ t.diagSeen = false

/-- R232: a `LOAD` of a ROM longer than `ROM_MAX` leaves exactly the state a `RESET` leaves, but for the status it returns;
a ROM longer than 3584 bytes is refused whatever the parameter, and no other `LOAD` fails. -/
def Obligations.OversizeLoadLeavesResetState : Prop :=
  (∀ (s : State) (rom : List Byte) (rest : List Command), rom.length > romMaxBytes s.params.romMax →
    ∃ t u, step { s with commands := .load rom :: rest } = .next t ∧ step { s with commands := .reset :: rest } = .next u
      ∧ t = { u with loadStatus := some .tooLarge })
  ∧ (∀ (p : Params) (rom : List Byte), rom.length > 3584 → rom.length > romMaxBytes p.romMax)
  ∧ ∀ (s : State) (rom : List Byte) (rest : List Command), rom.length ≤ romMaxBytes s.params.romMax →
      ∃ t, step { s with commands := .load rom :: rest } = .next t ∧ t.loadStatus = some .ok

/-! ### Invariants and whole-machine rules -/

/-- R43 and the model's canonical form of memory: every command, in every state that meets the invariant, leaves a state
that meets it. That `fault_info` and the record of events agree with the latch and `diag_seen` is how the model keeps them
(log 6, log 7). -/
def Obligations.StepKeepsInvariant : Prop :=
  ∀ s t : State, s.Inv → step s = .next t → t.Inv

/-- R42, R43: the reset state meets the invariant. -/
def Obligations.ResetStateMeetsInvariant : Prop := State.reset.Inv

/-- The model's choice, no rule of the spec (log 5): every step answers a next state. The cases that
93_implementation_defined.md lists as `fault` and `stuck` (U27: an `EXEC` after a fatal fault, which does nothing) are next
states of the model, and `Fault` has no constructor. -/
def Obligations.StepAlwaysAnswersNext : Prop := ∀ s : State, ∃ t, step s = .next t

/-- R33 to R35, R198, R203 (D20): no instruction writes the keys, the diagnostic status, the parameters or what the host has
waiting. -/
def Obligations.InstructionsLeaveHostSideAlone : Prop :=
  ∀ (i : Instr) (s t : State), exec i s = .next t →
    t.KEY = s.KEY ∧ t.diagSeen = s.diagSeen ∧ t.diagEvents = s.diagEvents ∧ t.loadStatus = s.loadStatus
    ∧ t.commands = s.commands ∧ t.params = s.params

/-- R22, R23, R27 to R32, R36, R65, R69 (D20): which instructions can change each element. -/
def Obligations.OnlyNamedInstructionsWriteEachElement : Prop :=
  ∀ (i : Instr) (s t : State), exec i s = .next t →
    (t.I ≠ s.I → (∃ n, i = .ldI n) ∨ (∃ x, i = .addI x) ∨ (∃ x, i = .ldF x))
    ∧ (t.sp ≠ s.sp → i = .ret ∨ ∃ n, i = .call n)
    ∧ (t.stack ≠ s.stack → ∃ n, i = .call n)
    ∧ (t.DT ≠ s.DT → ∃ x, i = .ldDTVx x)
    ∧ (t.FB ≠ s.FB → i = .cls ∨ ∃ x y n, i = .drw x y n)
    ∧ ((∃ a, t.readByte a ≠ s.readByte a) → (∃ x, i = .ldB x) ∨ ∃ x, i = .store x)
    ∧ (t.draws ≠ s.draws → ∃ x nn, i = .rnd x nn)
    ∧ (i = .cls ∨ i = .ret ∨ (∃ n, i = .jp n) ∨ (∃ n, i = .call n) ∨ (∃ n, i = .ldI n) ∨ (∃ x, i = .ldSTVx x) → t.V = s.V)

/-- R32: a step that changes the framebuffer is an `EXEC` of `Dxyn`, an `EXEC` of `00E0`, which clears it, or a reset (by
`RESET` or `LOAD`), which clears it. -/
def Obligations.FramebufferChangesInThreeWays : Prop :=
  ∀ s t : State, step s = .next t → t.FB ≠ s.FB →
    (s.fault = .none ∧ (s.commands = [] ∨ ∃ rest, s.commands = .exec :: rest)
      ∧ ((∃ x y n, s.AtPc (.drw x y n)) ∨ (s.AtPc .cls ∧ ∀ r c, t.pixel r c = false)))
    ∨ (((∃ rest, s.commands = .reset :: rest) ∨ ∃ rom rest, s.commands = .load rom :: rest) ∧ ∀ r c, t.pixel r c = false)

/-- R194 (D5): an `EXEC` that faults writes the latch and `fault_info`, which records pc and, when one was fetched, the
opcode, and changes nothing else. -/
def Obligations.FaultsArePrecise : Prop :=
  ∀ (s t : State) (rest : List Command), s.commands = .exec :: rest → s.fault = .none → step s = .next t → t.fault ≠ .none →
    t = { s with commands := rest, fault := t.fault, faultInfo := t.faultInfo }
    ∧ ∃ info, t.faultInfo = some info ∧ info.pc = s.pc
      ∧ info.opcode = if s.pc.toNat ≤ 4094
          then some (wordOfBytes (s.readByte s.pc.toNat) (s.readByte (s.pc.toNat + 1))) else none

/-- R68, R190, R201 (D5, D6, D7): each instruction's one check, the cause it raises and what is recorded; where the check
passes the latch is untouched. -/
def Obligations.FaultsExactlyWhenCheckFails : Prop :=
  ∀ (i : Instr) (s : State),
    (∀ c d, faultOf i s = some (c, d) →
      exec i s = .next { s with fault := c, faultInfo := some { pc := s.pc, opcode := some (encode i), detail := d } })
    ∧ (faultOf i s = none → ∃ t, exec i s = .next t ∧ t.fault = s.fault ∧ t.faultInfo = s.faultInfo)

/-- R236 (D18): a PARKED machine stays as it is at every `EXEC` (here the step's own, log 1); a `TICK` leaves it PARKED,
without a fault. -/
def Obligations.ParkedStaysParked : Prop :=
  ∀ s : State, s.Parked → s.fault = .none →
    (s.commands = [] → step s = .next s)
    ∧ (∀ rest, s.commands = .tick :: rest → ∃ t, step s = .next t ∧ t.Parked ∧ t.fault = .none)

/-- R37, R181, R236 (D18): an `EXEC` of a WAITING machine (here the step's own, log 1) changes nothing, a `TICK` leaves it
WAITING, and a `KEYS` with some key down lets the next `EXEC` complete. -/
def Obligations.WaitingLastsUntilKeyIsDown : Prop :=
  ∀ s : State, s.Waiting → s.fault = .none →
    (s.commands = [] → step s = .next s)
    ∧ (∀ rest, s.commands = .tick :: rest → ∃ t, step s = .next t ∧ t.Waiting)
    ∧ (∀ k : BitVec 16, k ≠ 0 → s.commands = [.keys k] →
        ∃ t u, step s = .next t ∧ step t = .next u ∧ u.pc = s.pc + 2)

/-- R34, R35, R203 (D5 and D8): no instruction can see the fault latch, the diagnostic status or the load status: run from
a state that differs only in them, it has the same effect on everything else. -/
def Obligations.InstructionsCannotSeeStatus : Prop :=
  ∀ (i : Instr) (s : State) (f : FaultCause) (fi : Option FaultInfo) (d : Bool) (ev : List DiagEvent) (l : Option LoadStatus),
    ∃ t u, exec i s = .next t
      ∧ exec i { s with fault := f, faultInfo := fi, diagSeen := d, diagEvents := ev, loadStatus := l } = .next u
      ∧ u = { t with fault := u.fault, faultInfo := u.faultInfo, diagSeen := d, diagEvents := ev, loadStatus := l }

/-- R32, R122: the only path from the framebuffer to the rest of the machine is the collision flag of `Dxyn` in VF. -/
def Obligations.FramebufferReachesOnlyVF : Prop :=
  ∀ (i : Instr) (s : State) (fb : Vector (Vector Bool 64) 32),
    ∃ t u, exec i s = .next t ∧ exec i { s with FB := fb } = .next u
      ∧ u = { t with FB := u.FB, V := u.V }
      ∧ (∀ r, r ≠ VF → u.getV r = t.getV r)
      ∧ ((∀ x y n, i ≠ .drw x y n) → u.V = t.V)

/-! ### Display (40_display.md) -/

/-- R120: `00E0` clears every pixel. -/
def Obligations.ClearBlanksFramebuffer : Prop :=
  ∀ s : State, ∃ t, exec .cls s = .next t ∧ (∀ r c, t.pixel r c = false) ∧ t.pc = s.pc + 2
    ∧ t = { s with FB := t.FB, pc := t.pc } ∧ SameMemory s t

/-- R121 (D11 and D20): `Dxyn` exclusive-ors each sprite bit into the pixel at `((y0+row) mod 32, (x0+col) mod 64)`, and
every pixel that is no sprite bit's place is unchanged. The coordinates are the registers' values before the instruction,
VF's too. -/
def Obligations.DrawTogglesSpritePixels : Prop :=
  ∀ (x y : Reg) (n : Fin 16) (s : State), n.val = 0 ∨ s.I.toNat + n.val - 1 ≤ 4095 →
    ∃ t, exec (.drw x y n) s = .next t
      ∧ (∀ (row col : Nat) (r : Fin 32) (c : Fin 64), row < n.val → col < 8 →
          r.val = ((s.getV y).toNat % 32 + row) % 32 → c.val = ((s.getV x).toNat % 64 + col) % 64 →
          t.pixel r c = (s.pixel r c ^^ (s.readByte (s.I.toNat + row)).getLsbD (7 - col)))
      ∧ (∀ (r : Fin 32) (c : Fin 64),
          (∀ row col, row < n.val → col < 8 →
            ¬(r.val = ((s.getV y).toNat % 32 + row) % 32 ∧ c.val = ((s.getV x).toNat % 64 + col) % 64)) →
          t.pixel r c = s.pixel r c)
      ∧ t.pc = s.pc + 2 ∧ t = { s with FB := t.FB, V := t.V, pc := t.pc }
      ∧ (∀ r, r ≠ VF → t.getV r = s.getV r) ∧ SameMemory s t

/-- R121 (D11): after `Dxyn` VF is 1 when a sprite bit that is 1 landed on a pixel that was 1, else 0. -/
def Obligations.DrawReportsCollision : Prop :=
  ∀ (x y : Reg) (n : Fin 16) (s : State), n.val = 0 ∨ s.I.toNat + n.val - 1 ≤ 4095 →
    ∃ t, exec (.drw x y n) s = .next t
      ∧ (t.getV VF = 0 ∨ t.getV VF = 1)
      ∧ (t.getV VF = 1 ↔ ∃ (row col : Nat) (r : Fin 32) (c : Fin 64), row < n.val ∧ col < 8
          ∧ r.val = ((s.getV y).toNat % 32 + row) % 32 ∧ c.val = ((s.getV x).toNat % 64 + col) % 64
          ∧ (s.readByte (s.I.toNat + row)).getLsbD (7 - col) = true ∧ s.pixel r c = true)

/-- R121: drawing the same sprite twice at the same place restores the framebuffer. The second draw collides exactly where
a sprite bit that is 1 landed on a pixel that was dark before the first (log 14). -/
def Obligations.DrawTwiceRestoresFramebuffer : Prop :=
  ∀ (x y : Reg) (n : Fin 16) (s : State), x ≠ VF → y ≠ VF → n.val = 0 ∨ s.I.toNat + n.val - 1 ≤ 4095 →
    ∃ t u, exec (.drw x y n) s = .next t ∧ exec (.drw x y n) t = .next u
      ∧ (∀ r c, u.pixel r c = s.pixel r c)
      ∧ (u.getV VF = 1 ↔ ∃ (row col : Nat) (r : Fin 32) (c : Fin 64), row < n.val ∧ col < 8
          ∧ r.val = ((s.getV y).toNat % 32 + row) % 32 ∧ c.val = ((s.getV x).toNat % 64 + col) % 64
          ∧ (s.readByte (s.I.toNat + row)).getLsbD (7 - col) = true ∧ s.pixel r c = false)

/-! ### Control transfer (41_control_flow.md) -/

/-- R130: with `k + 1` live entries `00EE` drops the newest and goes to the address in it plus 2. -/
def Obligations.ReturnResumesAfterCall : Prop :=
  ∀ (s : State) (k : Fin 16), s.sp.val = k.val + 1 →
    ∃ t, exec .ret s = .next t ∧ t.sp.val = k.val ∧ t.pc = s.stack[k] + 2
      ∧ t = { s with sp := t.sp, pc := t.pc } ∧ SameMemory s t

/-- R132: with `k` live entries, at most 15, `2nnn` pushes its own address and goes to `nnn`. -/
def Obligations.CallPushesOwnAddress : Prop :=
  ∀ (nnn : Addr) (s : State) (k : Fin 16), s.sp.val = k.val →
    ∃ t, exec (.call nnn) s = .next t ∧ t.sp.val = k.val + 1 ∧ t.stack[k] = s.pc
      ∧ (∀ j : Fin 16, j ≠ k → t.stack[j] = s.stack[j]) ∧ t.pc.toNat = nnn.toNat
      ∧ t = { s with stack := t.stack, sp := t.sp, pc := t.pc } ∧ SameMemory s t

/-- R130, R134: `00EE` straight after `2nnn` goes to the instruction after the call, with the stack pointer as before. -/
def Obligations.CallThenReturnResumes : Prop :=
  ∀ (nnn : Addr) (s : State), s.sp.val < 16 →
    ∃ t u, exec (.call nnn) s = .next t ∧ exec .ret t = .next u ∧ u.pc = s.pc + 2
      ∧ u = { s with stack := u.stack, pc := u.pc }
      ∧ (∀ j : Fin 16, j.val ≠ s.sp.val → u.stack[j] = s.stack[j])

/-- R131, R133: the jumps write pc alone; the sum of `Bnnn` is not reduced to 12 bits. -/
def Obligations.JumpsSetPcAlone : Prop :=
  ∀ (nnn : Addr) (s : State),
    (∃ t, exec (.jp nnn) s = .next t ∧ t.pc.toNat = nnn.toNat ∧ t = { s with pc := t.pc } ∧ SameMemory s t)
    ∧ (∃ t, exec (.jpV0 nnn) s = .next t ∧ t.pc.toNat = nnn.toNat + (s.getV 0).toNat ∧ t = { s with pc := t.pc }
        ∧ SameMemory s t)

/-! ### Conditional skips (42_skips.md) -/

/-- R140 to R143: the compares of registers and immediates advance pc by 4 or by 2 and write nothing else. -/
def Obligations.CompareSkipsAdvanceByFourOrTwo : Prop :=
  ∀ (x y : Reg) (nn : Byte) (s : State),
    exec (.seImm x nn) s = .next { s with pc := if (s.getV x).toNat = nn.toNat then s.pc + 4 else s.pc + 2 }
    ∧ exec (.sneImm x nn) s = .next { s with pc := if (s.getV x).toNat ≠ nn.toNat then s.pc + 4 else s.pc + 2 }
    ∧ exec (.seReg x y) s = .next { s with pc := if (s.getV x).toNat = (s.getV y).toNat then s.pc + 4 else s.pc + 2 }
    ∧ exec (.sneReg x y) s = .next { s with pc := if (s.getV x).toNat ≠ (s.getV y).toNat then s.pc + 4 else s.pc + 2 }

/-- R144, R145: with a key code in `V[x]` the key skips test that key's flag. -/
def Obligations.KeySkipsTestNamedKey : Prop :=
  ∀ (x : Reg) (s : State) (k : Fin 16), (s.getV x).toNat = k.val →
    exec (.skp x) s = .next { s with pc := if s.KEY.getLsbD k.val = true then s.pc + 4 else s.pc + 2 }
    ∧ exec (.sknp x) s = .next { s with pc := if s.KEY.getLsbD k.val = false then s.pc + 4 else s.pc + 2 }

/-! ### Register load and arithmetic (43_alu.md) -/

/-- R150, R151: load and add of an immediate; no flag. -/
def Obligations.ImmediateLoadAndAdd : Prop :=
  ∀ (x : Reg) (nn : Byte) (s : State),
    (∃ t, exec (.ldImm x nn) s = .next t ∧ t.getV x = nn ∧ t.pc = s.pc + 2 ∧ OnlyRegistersChange [x] s t)
    ∧ (∃ t, exec (.addImm x nn) s = .next t ∧ (t.getV x).toNat = ((s.getV x).toNat + nn.toNat) % 256 ∧ t.pc = s.pc + 2
        ∧ OnlyRegistersChange [x] s t)

/-- R152 to R155 (D20): copy, or, and, exclusive or, bit by bit; VF is written only as the destination. -/
def Obligations.CopyAndLogicWriteDestinationOnly : Prop :=
  ∀ (x y : Reg) (s : State),
    (∃ t, exec (.ldReg x y) s = .next t ∧ t.getV x = s.getV y ∧ t.pc = s.pc + 2 ∧ OnlyRegistersChange [x] s t)
    ∧ (∃ t, exec (.orReg x y) s = .next t
        ∧ (∀ k, (t.getV x).getLsbD k = ((s.getV x).getLsbD k || (s.getV y).getLsbD k)) ∧ t.pc = s.pc + 2
        ∧ OnlyRegistersChange [x] s t)
    ∧ (∃ t, exec (.andReg x y) s = .next t
        ∧ (∀ k, (t.getV x).getLsbD k = ((s.getV x).getLsbD k && (s.getV y).getLsbD k)) ∧ t.pc = s.pc + 2
        ∧ OnlyRegistersChange [x] s t)
    ∧ (∃ t, exec (.xorReg x y) s = .next t
        ∧ (∀ k, (t.getV x).getLsbD k = ((s.getV x).getLsbD k ^^ (s.getV y).getLsbD k)) ∧ t.pc = s.pc + 2
        ∧ OnlyRegistersChange [x] s t)

/-- R156, R162: `8xy4` without VF as an operand, under either value of `VF_ORDER`. -/
def Obligations.AddSetsCarry : Prop :=
  ∀ (x y : Reg) (s : State), x ≠ VF → y ≠ VF →
    ∃ t, exec (.addReg x y) s = .next t
      ∧ (t.getV x).toNat = ((s.getV x).toNat + (s.getV y).toNat) % 256
      ∧ t.getV VF = (if (s.getV x).toNat + (s.getV y).toNat > 255 then 1 else 0)
      ∧ t.pc = s.pc + 2 ∧ OnlyRegistersChange [x, VF] s t

/-- R157, R159, R162: `8xy5` and `8xy7` without VF as an operand, under either value of `VF_ORDER`; the flag is strict. -/
def Obligations.SubtractSetsGreater : Prop :=
  ∀ (x y : Reg) (s : State), x ≠ VF → y ≠ VF →
    (∃ t, exec (.subReg x y) s = .next t
      ∧ (t.getV x).toNat = (256 + (s.getV x).toNat - (s.getV y).toNat) % 256
      ∧ t.getV VF = (if (s.getV x).toNat > (s.getV y).toNat then 1 else 0)
      ∧ t.pc = s.pc + 2 ∧ OnlyRegistersChange [x, VF] s t)
    ∧ (∃ t, exec (.subn x y) s = .next t
      ∧ (t.getV x).toNat = (256 + (s.getV y).toNat - (s.getV x).toNat) % 256
      ∧ t.getV VF = (if (s.getV y).toNat > (s.getV x).toNat then 1 else 0)
      ∧ t.pc = s.pc + 2 ∧ OnlyRegistersChange [x, VF] s t)

/-- R158, R160, R162: `8xy6` and `8xyE` on a register other than VF, under either value of `VF_ORDER`; `y` is ignored. -/
def Obligations.ShiftsMoveBitToVF : Prop :=
  ∀ (x y : Reg) (s : State), x ≠ VF →
    (∃ t, exec (.shr x y) s = .next t ∧ (t.getV x).toNat = (s.getV x).toNat / 2
      ∧ (t.getV VF).toNat = (s.getV x).toNat % 2 ∧ t.pc = s.pc + 2 ∧ OnlyRegistersChange [x, VF] s t)
    ∧ (∃ t, exec (.shl x y) s = .next t ∧ (t.getV x).toNat = 2 * (s.getV x).toNat % 256
      ∧ (t.getV VF).toNat = (s.getV x).toNat / 128 ∧ t.pc = s.pc + 2 ∧ OnlyRegistersChange [x, VF] s t)

/-- R156 to R160, R163 (D10): under `flag_first`, for all operands, VF among them: with `c` the flag of the old values, the
operation is applied to the registers after VF was set to `c`, and VF ends as `c` unless it is `V[x]`. The shifts stand here
for VF alone; `ShiftsMoveBitToVF` has them for every other register. -/
def Obligations.FlagFirstReadsNewVF : Prop :=
  ∀ (x y : Reg) (s : State), s.params.vfOrder = .flagFirst →
    (∃ t c : _, exec (.addReg x y) s = .next t ∧ c = (if (s.getV x).toNat + (s.getV y).toNat > 255 then 1 else 0)
      ∧ (t.getV x).toNat = ((if x = VF then c else (s.getV x).toNat) + (if y = VF then c else (s.getV y).toNat)) % 256
      ∧ (x ≠ VF → (t.getV VF).toNat = c) ∧ t.pc = s.pc + 2 ∧ OnlyRegistersChange [x, VF] s t)
    ∧ (∃ t c : _, exec (.subReg x y) s = .next t ∧ c = (if (s.getV x).toNat > (s.getV y).toNat then 1 else 0)
      ∧ (t.getV x).toNat = (256 + (if x = VF then c else (s.getV x).toNat) - (if y = VF then c else (s.getV y).toNat)) % 256
      ∧ (x ≠ VF → (t.getV VF).toNat = c) ∧ t.pc = s.pc + 2 ∧ OnlyRegistersChange [x, VF] s t)
    ∧ (∃ t c : _, exec (.subn x y) s = .next t ∧ c = (if (s.getV y).toNat > (s.getV x).toNat then 1 else 0)
      ∧ (t.getV x).toNat = (256 + (if y = VF then c else (s.getV y).toNat) - (if x = VF then c else (s.getV x).toNat)) % 256
      ∧ (x ≠ VF → (t.getV VF).toNat = c) ∧ t.pc = s.pc + 2 ∧ OnlyRegistersChange [x, VF] s t)
    ∧ (∃ t, exec (.shr VF y) s = .next t ∧ t.getV VF = 0 ∧ t.pc = s.pc + 2 ∧ OnlyRegistersChange [VF] s t)
    ∧ (∃ t, exec (.shl VF y) s = .next t ∧ (t.getV VF).toNat = 2 * ((s.getV VF).toNat / 128) ∧ t.pc = s.pc + 2
      ∧ OnlyRegistersChange [VF] s t)

/-- R163 (D10): under `result_last`, for all operands, VF among them: VF ends as the flag of the old values, and `V[x]`,
when it is not VF, as the operation on the old values. -/
def Obligations.ResultLastKeepsFlag : Prop :=
  ∀ (x y : Reg) (s : State), s.params.vfOrder = .resultLast →
    (∃ t, exec (.addReg x y) s = .next t
      ∧ (t.getV VF).toNat = (if (s.getV x).toNat + (s.getV y).toNat > 255 then 1 else 0)
      ∧ (x ≠ VF → (t.getV x).toNat = ((s.getV x).toNat + (s.getV y).toNat) % 256)
      ∧ t.pc = s.pc + 2 ∧ OnlyRegistersChange [x, VF] s t)
    ∧ (∃ t, exec (.subReg x y) s = .next t
      ∧ (t.getV VF).toNat = (if (s.getV x).toNat > (s.getV y).toNat then 1 else 0)
      ∧ (x ≠ VF → (t.getV x).toNat = (256 + (s.getV x).toNat - (s.getV y).toNat) % 256)
      ∧ t.pc = s.pc + 2 ∧ OnlyRegistersChange [x, VF] s t)
    ∧ (∃ t, exec (.subn x y) s = .next t
      ∧ (t.getV VF).toNat = (if (s.getV y).toNat > (s.getV x).toNat then 1 else 0)
      ∧ (x ≠ VF → (t.getV x).toNat = (256 + (s.getV y).toNat - (s.getV x).toNat) % 256)
      ∧ t.pc = s.pc + 2 ∧ OnlyRegistersChange [x, VF] s t)
    ∧ (∃ t, exec (.shr x y) s = .next t ∧ (t.getV VF).toNat = (s.getV x).toNat % 2
      ∧ (x ≠ VF → (t.getV x).toNat = (s.getV x).toNat / 2) ∧ t.pc = s.pc + 2 ∧ OnlyRegistersChange [x, VF] s t)
    ∧ (∃ t, exec (.shl x y) s = .next t ∧ (t.getV VF).toNat = (s.getV x).toNat / 128
      ∧ (x ≠ VF → (t.getV x).toNat = 2 * (s.getV x).toNat % 256) ∧ t.pc = s.pc + 2 ∧ OnlyRegistersChange [x, VF] s t)

/-- R161 (D12): `Cxnn` writes one random byte masked with `nn`, whatever the byte is: no bit that `nn` lacks, and exactly
one draw is consumed. The byte is the free value of the draw (log 3). -/
def Obligations.RandomIsMasked : Prop :=
  ∀ (x : Reg) (nn : Byte) (s : State),
    ∃ t, exec (.rnd x nn) s = .next t ∧ t.draws = s.draws + 1
      ∧ (∀ k, (t.getV x).getLsbD k = (nn.getLsbD k && (Config.rnd s.draws).getLsbD k))
      ∧ (∀ k, nn.getLsbD k = false → (t.getV x).getLsbD k = false)
      ∧ (∀ r, r ≠ x → t.getV r = s.getV r) ∧ t.pc = s.pc + 2
      ∧ t = { s with V := t.V, draws := t.draws, pc := t.pc } ∧ SameMemory s t

/-! ### Index register and memory (44_index_memory.md) -/

/-- R170 to R172 (D20): the three instructions that write `I`; the sum wraps at 65536, the product is exact, no flag. -/
def Obligations.IndexRegisterWrites : Prop :=
  ∀ (nnn : Addr) (x : Reg) (s : State),
    (∃ t, exec (.ldI nnn) s = .next t ∧ t.I.toNat = nnn.toNat ∧ t.pc = s.pc + 2
      ∧ t = { s with I := t.I, pc := t.pc } ∧ SameMemory s t)
    ∧ (∃ t, exec (.addI x) s = .next t ∧ t.I.toNat = (s.I.toNat + (s.getV x).toNat) % 65536 ∧ t.pc = s.pc + 2
      ∧ t = { s with I := t.I, pc := t.pc } ∧ SameMemory s t)
    ∧ (∃ t, exec (.ldF x) s = .next t ∧ t.I.toNat = 5 * (s.getV x).toNat ∧ t.pc = s.pc + 2
      ∧ t = { s with I := t.I, pc := t.pc } ∧ SameMemory s t)

/-- R173 (D6 and D20): the three digits, hundreds first, at `I`, `I+1`, `I+2`, and every other byte of memory as before. -/
def Obligations.BcdStoresThreeDigits : Prop :=
  ∀ (x : Reg) (s : State), s.I.toNat + 2 ≤ 4095 →
    ∃ t, exec (.ldB x) s = .next t
      ∧ (t.readByte s.I.toNat).toNat = (s.getV x).toNat / 100
      ∧ (t.readByte (s.I.toNat + 1)).toNat = (s.getV x).toNat / 10 % 10
      ∧ (t.readByte (s.I.toNat + 2)).toNat = (s.getV x).toNat % 10
      ∧ (∀ a, a < s.I.toNat ∨ s.I.toNat + 2 < a → t.readByte a = s.readByte a)
      ∧ t.pc = s.pc + 2 ∧ t = { s with mem := t.mem, pc := t.pc }

/-- R174 (D20): `V[0]` to `V[x]` at `I` to `I+x`, and every other byte of memory as before; `I` is unchanged. -/
def Obligations.StoreWritesRegisterBlock : Prop :=
  ∀ (x : Reg) (s : State), s.I.toNat + x.val ≤ 4095 →
    ∃ t, exec (.store x) s = .next t
      ∧ (∀ k : Reg, k ≤ x → t.readByte (s.I.toNat + k.val) = s.getV k)
      ∧ (∀ a, a < s.I.toNat ∨ s.I.toNat + x.val < a → t.readByte a = s.readByte a)
      ∧ t.pc = s.pc + 2 ∧ t = { s with mem := t.mem, pc := t.pc }

/-- R175 (D20): `V[0]` to `V[x]` from `I` to `I+x`; the registers above `x`, `I` and memory are unchanged. -/
def Obligations.LoadReadsRegisterBlock : Prop :=
  ∀ (x : Reg) (s : State), s.I.toNat + x.val ≤ 4095 →
    ∃ t, exec (.load x) s = .next t
      ∧ (∀ k : Reg, k ≤ x → t.getV k = s.readByte (s.I.toNat + k.val))
      ∧ t.pc = s.pc + 2 ∧ OnlyRegistersChange ((List.finRange 16).filter (· ≤ x)) s t

/-- R174, R175: what `Fx55` stored, `Fx65` from the same `I` loads back, whatever the registers held in between. -/
def Obligations.StoreThenLoadGivesBack : Prop :=
  ∀ (x : Reg) (s : State) (V : Vector Byte 16), s.I.toNat + x.val ≤ 4095 →
    ∃ t u, exec (.store x) s = .next t ∧ exec (.load x) { t with V := V } = .next u
      ∧ (∀ k : Reg, k ≤ x → u.getV k = s.getV k) ∧ (∀ k : Reg, x < k → u.getV k = V[k])

/-- R74, R77 (D19): bytes stored at the next instruction's address are what the very next fetch reads. -/
def Obligations.NextFetchSeesStoredBytes : Prop :=
  ∀ (x k : Reg) (s : State) (hk : k.val + 1 < 16), s.I.toNat + x.val ≤ 4095 → k.val + 1 ≤ x.val →
    s.I.toNat + k.val = (s.pc + 2).toNat →
    ∃ t, exec (.store x) s = .next t ∧ t.fetchWord = some (wordOfBytes (s.getV k) (s.getV ⟨k.val + 1, hk⟩))

/-! ### Timer and key wait (45_timer_key.md) -/

/-- R180, R182, R183: reading and writing `DT`, and the sound-timer instruction, which only advances pc. -/
def Obligations.TimerReadWriteAndSoundNop : Prop :=
  ∀ (x : Reg) (s : State),
    (∃ t, exec (.ldVxDT x) s = .next t ∧ t.getV x = s.DT ∧ t.pc = s.pc + 2 ∧ OnlyRegistersChange [x] s t)
    ∧ (∃ t, exec (.ldDTVx x) s = .next t ∧ t.DT = s.getV x ∧ t.pc = s.pc + 2 ∧ t = { s with DT := t.DT, pc := t.pc }
        ∧ SameMemory s t)
    ∧ exec (.ldSTVx x) s = .next { s with pc := s.pc + 2 }

/-- R181, C4: with keys down `Fx0A` takes the highest key code that is down. -/
def Obligations.KeyWaitTakesHighestKey : Prop :=
  ∀ (x : Reg) (s : State) (k : Fin 16), s.KEY.getLsbD k.val = true → (∀ j : Fin 16, k < j → s.KEY.getLsbD j.val = false) →
    ∃ t, exec (.ldVxK x) s = .next t ∧ (t.getV x).toNat = k.val ∧ t.pc = s.pc + 2 ∧ OnlyRegistersChange [x] s t

/-- R37, R181: with all keys up `Fx0A` changes nothing, not even pc. -/
def Obligations.KeyWaitBlocksWithoutKey : Prop :=
  ∀ (x : Reg) (s : State), (∀ j : Fin 16, s.KEY.getLsbD j.val = false) → exec (.ldVxK x) s = .next s
end

