-- ==== Sys2Proof/Laws/State.lean ====
section
/-! SUPPORT. Sys2Proof/Laws/State.lean: every field of the state after every update, so that no proof unfolds a record
update. -/

namespace Sys2Proof.Machine

/-! ### setV -/

@[simp] theorem State.setV_V (s : State) (r : Reg) (v : Byte) : (s.setV r v).V = s.V.set r v := rfl
@[simp] theorem State.setV_I (s : State) (r : Reg) (v : Byte) : (s.setV r v).I = s.I := rfl
@[simp] theorem State.setV_pc (s : State) (r : Reg) (v : Byte) : (s.setV r v).pc = s.pc := rfl
@[simp] theorem State.setV_sp (s : State) (r : Reg) (v : Byte) : (s.setV r v).sp = s.sp := rfl
@[simp] theorem State.setV_stack (s : State) (r : Reg) (v : Byte) : (s.setV r v).stack = s.stack := rfl
@[simp] theorem State.setV_DT (s : State) (r : Reg) (v : Byte) : (s.setV r v).DT = s.DT := rfl
@[simp] theorem State.setV_mem (s : State) (r : Reg) (v : Byte) : (s.setV r v).mem = s.mem := rfl
@[simp] theorem State.setV_FB (s : State) (r : Reg) (v : Byte) : (s.setV r v).FB = s.FB := rfl
@[simp] theorem State.setV_KEY (s : State) (r : Reg) (v : Byte) : (s.setV r v).KEY = s.KEY := rfl
@[simp] theorem State.setV_fault (s : State) (r : Reg) (v : Byte) : (s.setV r v).fault = s.fault := rfl
@[simp] theorem State.setV_faultInfo (s : State) (r : Reg) (v : Byte) : (s.setV r v).faultInfo = s.faultInfo := rfl
@[simp] theorem State.setV_diagSeen (s : State) (r : Reg) (v : Byte) : (s.setV r v).diagSeen = s.diagSeen := rfl
@[simp] theorem State.setV_diagEvents (s : State) (r : Reg) (v : Byte) : (s.setV r v).diagEvents = s.diagEvents := rfl
@[simp] theorem State.setV_loadStatus (s : State) (r : Reg) (v : Byte) : (s.setV r v).loadStatus = s.loadStatus := rfl
@[simp] theorem State.setV_draws (s : State) (r : Reg) (v : Byte) : (s.setV r v).draws = s.draws := rfl
@[simp] theorem State.setV_commands (s : State) (r : Reg) (v : Byte) : (s.setV r v).commands = s.commands := rfl
@[simp] theorem State.setV_params (s : State) (r : Reg) (v : Byte) : (s.setV r v).params = s.params := rfl

/-! ### setI -/

@[simp] theorem State.setI_V (s : State) (v : Word) : (s.setI v).V = s.V := rfl
@[simp] theorem State.setI_I (s : State) (v : Word) : (s.setI v).I = v := rfl
@[simp] theorem State.setI_pc (s : State) (v : Word) : (s.setI v).pc = s.pc := rfl
@[simp] theorem State.setI_sp (s : State) (v : Word) : (s.setI v).sp = s.sp := rfl
@[simp] theorem State.setI_stack (s : State) (v : Word) : (s.setI v).stack = s.stack := rfl
@[simp] theorem State.setI_DT (s : State) (v : Word) : (s.setI v).DT = s.DT := rfl
@[simp] theorem State.setI_mem (s : State) (v : Word) : (s.setI v).mem = s.mem := rfl
@[simp] theorem State.setI_FB (s : State) (v : Word) : (s.setI v).FB = s.FB := rfl
@[simp] theorem State.setI_KEY (s : State) (v : Word) : (s.setI v).KEY = s.KEY := rfl
@[simp] theorem State.setI_fault (s : State) (v : Word) : (s.setI v).fault = s.fault := rfl
@[simp] theorem State.setI_faultInfo (s : State) (v : Word) : (s.setI v).faultInfo = s.faultInfo := rfl
@[simp] theorem State.setI_diagSeen (s : State) (v : Word) : (s.setI v).diagSeen = s.diagSeen := rfl
@[simp] theorem State.setI_diagEvents (s : State) (v : Word) : (s.setI v).diagEvents = s.diagEvents := rfl
@[simp] theorem State.setI_loadStatus (s : State) (v : Word) : (s.setI v).loadStatus = s.loadStatus := rfl
@[simp] theorem State.setI_draws (s : State) (v : Word) : (s.setI v).draws = s.draws := rfl
@[simp] theorem State.setI_commands (s : State) (v : Word) : (s.setI v).commands = s.commands := rfl
@[simp] theorem State.setI_params (s : State) (v : Word) : (s.setI v).params = s.params := rfl

/-! ### setDT -/

@[simp] theorem State.setDT_V (s : State) (v : Byte) : (s.setDT v).V = s.V := rfl
@[simp] theorem State.setDT_I (s : State) (v : Byte) : (s.setDT v).I = s.I := rfl
@[simp] theorem State.setDT_pc (s : State) (v : Byte) : (s.setDT v).pc = s.pc := rfl
@[simp] theorem State.setDT_sp (s : State) (v : Byte) : (s.setDT v).sp = s.sp := rfl
@[simp] theorem State.setDT_stack (s : State) (v : Byte) : (s.setDT v).stack = s.stack := rfl
@[simp] theorem State.setDT_DT (s : State) (v : Byte) : (s.setDT v).DT = v := rfl
@[simp] theorem State.setDT_mem (s : State) (v : Byte) : (s.setDT v).mem = s.mem := rfl
@[simp] theorem State.setDT_FB (s : State) (v : Byte) : (s.setDT v).FB = s.FB := rfl
@[simp] theorem State.setDT_KEY (s : State) (v : Byte) : (s.setDT v).KEY = s.KEY := rfl
@[simp] theorem State.setDT_fault (s : State) (v : Byte) : (s.setDT v).fault = s.fault := rfl
@[simp] theorem State.setDT_faultInfo (s : State) (v : Byte) : (s.setDT v).faultInfo = s.faultInfo := rfl
@[simp] theorem State.setDT_diagSeen (s : State) (v : Byte) : (s.setDT v).diagSeen = s.diagSeen := rfl
@[simp] theorem State.setDT_diagEvents (s : State) (v : Byte) : (s.setDT v).diagEvents = s.diagEvents := rfl
@[simp] theorem State.setDT_loadStatus (s : State) (v : Byte) : (s.setDT v).loadStatus = s.loadStatus := rfl
@[simp] theorem State.setDT_draws (s : State) (v : Byte) : (s.setDT v).draws = s.draws := rfl
@[simp] theorem State.setDT_commands (s : State) (v : Byte) : (s.setDT v).commands = s.commands := rfl
@[simp] theorem State.setDT_params (s : State) (v : Byte) : (s.setDT v).params = s.params := rfl

/-! ### setPc -/

@[simp] theorem State.setPc_V (s : State) (t : Word) : (s.setPc t).V = s.V := rfl
@[simp] theorem State.setPc_I (s : State) (t : Word) : (s.setPc t).I = s.I := rfl
@[simp] theorem State.setPc_pc (s : State) (t : Word) : (s.setPc t).pc = t := rfl
@[simp] theorem State.setPc_sp (s : State) (t : Word) : (s.setPc t).sp = s.sp := rfl
@[simp] theorem State.setPc_stack (s : State) (t : Word) : (s.setPc t).stack = s.stack := rfl
@[simp] theorem State.setPc_DT (s : State) (t : Word) : (s.setPc t).DT = s.DT := rfl
@[simp] theorem State.setPc_mem (s : State) (t : Word) : (s.setPc t).mem = s.mem := rfl
@[simp] theorem State.setPc_FB (s : State) (t : Word) : (s.setPc t).FB = s.FB := rfl
@[simp] theorem State.setPc_KEY (s : State) (t : Word) : (s.setPc t).KEY = s.KEY := rfl
@[simp] theorem State.setPc_fault (s : State) (t : Word) : (s.setPc t).fault = s.fault := rfl
@[simp] theorem State.setPc_faultInfo (s : State) (t : Word) : (s.setPc t).faultInfo = s.faultInfo := rfl
@[simp] theorem State.setPc_diagSeen (s : State) (t : Word) : (s.setPc t).diagSeen = s.diagSeen := rfl
@[simp] theorem State.setPc_diagEvents (s : State) (t : Word) : (s.setPc t).diagEvents = s.diagEvents := rfl
@[simp] theorem State.setPc_loadStatus (s : State) (t : Word) : (s.setPc t).loadStatus = s.loadStatus := rfl
@[simp] theorem State.setPc_draws (s : State) (t : Word) : (s.setPc t).draws = s.draws := rfl
@[simp] theorem State.setPc_commands (s : State) (t : Word) : (s.setPc t).commands = s.commands := rfl
@[simp] theorem State.setPc_params (s : State) (t : Word) : (s.setPc t).params = s.params := rfl

/-! ### advance -/

@[simp] theorem State.advance_V (s : State) : (s.advance).V = s.V := rfl
@[simp] theorem State.advance_I (s : State) : (s.advance).I = s.I := rfl
@[simp] theorem State.advance_pc (s : State) : (s.advance).pc = s.pc + 2 := rfl
@[simp] theorem State.advance_sp (s : State) : (s.advance).sp = s.sp := rfl
@[simp] theorem State.advance_stack (s : State) : (s.advance).stack = s.stack := rfl
@[simp] theorem State.advance_DT (s : State) : (s.advance).DT = s.DT := rfl
@[simp] theorem State.advance_mem (s : State) : (s.advance).mem = s.mem := rfl
@[simp] theorem State.advance_FB (s : State) : (s.advance).FB = s.FB := rfl
@[simp] theorem State.advance_KEY (s : State) : (s.advance).KEY = s.KEY := rfl
@[simp] theorem State.advance_fault (s : State) : (s.advance).fault = s.fault := rfl
@[simp] theorem State.advance_faultInfo (s : State) : (s.advance).faultInfo = s.faultInfo := rfl
@[simp] theorem State.advance_diagSeen (s : State) : (s.advance).diagSeen = s.diagSeen := rfl
@[simp] theorem State.advance_diagEvents (s : State) : (s.advance).diagEvents = s.diagEvents := rfl
@[simp] theorem State.advance_loadStatus (s : State) : (s.advance).loadStatus = s.loadStatus := rfl
@[simp] theorem State.advance_draws (s : State) : (s.advance).draws = s.draws := rfl
@[simp] theorem State.advance_commands (s : State) : (s.advance).commands = s.commands := rfl
@[simp] theorem State.advance_params (s : State) : (s.advance).params = s.params := rfl

/-! ### skipIf -/

@[simp] theorem State.skipIf_V (s : State) (c : Bool) : (s.skipIf c).V = s.V := rfl
@[simp] theorem State.skipIf_I (s : State) (c : Bool) : (s.skipIf c).I = s.I := rfl
@[simp] theorem State.skipIf_pc (s : State) (c : Bool) : (s.skipIf c).pc = s.pc + if c then 4 else 2 := rfl
@[simp] theorem State.skipIf_sp (s : State) (c : Bool) : (s.skipIf c).sp = s.sp := rfl
@[simp] theorem State.skipIf_stack (s : State) (c : Bool) : (s.skipIf c).stack = s.stack := rfl
@[simp] theorem State.skipIf_DT (s : State) (c : Bool) : (s.skipIf c).DT = s.DT := rfl
@[simp] theorem State.skipIf_mem (s : State) (c : Bool) : (s.skipIf c).mem = s.mem := rfl
@[simp] theorem State.skipIf_FB (s : State) (c : Bool) : (s.skipIf c).FB = s.FB := rfl
@[simp] theorem State.skipIf_KEY (s : State) (c : Bool) : (s.skipIf c).KEY = s.KEY := rfl
@[simp] theorem State.skipIf_fault (s : State) (c : Bool) : (s.skipIf c).fault = s.fault := rfl
@[simp] theorem State.skipIf_faultInfo (s : State) (c : Bool) : (s.skipIf c).faultInfo = s.faultInfo := rfl
@[simp] theorem State.skipIf_diagSeen (s : State) (c : Bool) : (s.skipIf c).diagSeen = s.diagSeen := rfl
@[simp] theorem State.skipIf_diagEvents (s : State) (c : Bool) : (s.skipIf c).diagEvents = s.diagEvents := rfl
@[simp] theorem State.skipIf_loadStatus (s : State) (c : Bool) : (s.skipIf c).loadStatus = s.loadStatus := rfl
@[simp] theorem State.skipIf_draws (s : State) (c : Bool) : (s.skipIf c).draws = s.draws := rfl
@[simp] theorem State.skipIf_commands (s : State) (c : Bool) : (s.skipIf c).commands = s.commands := rfl
@[simp] theorem State.skipIf_params (s : State) (c : Bool) : (s.skipIf c).params = s.params := rfl

/-! ### push -/

@[simp] theorem State.push_V (s : State) (a : Word) (h : s.sp.val < 16) : (s.push a h).V = s.V := rfl
@[simp] theorem State.push_I (s : State) (a : Word) (h : s.sp.val < 16) : (s.push a h).I = s.I := rfl
@[simp] theorem State.push_pc (s : State) (a : Word) (h : s.sp.val < 16) : (s.push a h).pc = s.pc := rfl
@[simp] theorem State.push_sp (s : State) (a : Word) (h : s.sp.val < 16) : (s.push a h).sp = ⟨s.sp.val + 1, by omega⟩ := rfl
@[simp] theorem State.push_stack (s : State) (a : Word) (h : s.sp.val < 16) : (s.push a h).stack = s.stack.set s.sp.val a := rfl
@[simp] theorem State.push_DT (s : State) (a : Word) (h : s.sp.val < 16) : (s.push a h).DT = s.DT := rfl
@[simp] theorem State.push_mem (s : State) (a : Word) (h : s.sp.val < 16) : (s.push a h).mem = s.mem := rfl
@[simp] theorem State.push_FB (s : State) (a : Word) (h : s.sp.val < 16) : (s.push a h).FB = s.FB := rfl
@[simp] theorem State.push_KEY (s : State) (a : Word) (h : s.sp.val < 16) : (s.push a h).KEY = s.KEY := rfl
@[simp] theorem State.push_fault (s : State) (a : Word) (h : s.sp.val < 16) : (s.push a h).fault = s.fault := rfl
@[simp] theorem State.push_faultInfo (s : State) (a : Word) (h : s.sp.val < 16) : (s.push a h).faultInfo = s.faultInfo := rfl
@[simp] theorem State.push_diagSeen (s : State) (a : Word) (h : s.sp.val < 16) : (s.push a h).diagSeen = s.diagSeen := rfl
@[simp] theorem State.push_diagEvents (s : State) (a : Word) (h : s.sp.val < 16) : (s.push a h).diagEvents = s.diagEvents := rfl
@[simp] theorem State.push_loadStatus (s : State) (a : Word) (h : s.sp.val < 16) : (s.push a h).loadStatus = s.loadStatus := rfl
@[simp] theorem State.push_draws (s : State) (a : Word) (h : s.sp.val < 16) : (s.push a h).draws = s.draws := rfl
@[simp] theorem State.push_commands (s : State) (a : Word) (h : s.sp.val < 16) : (s.push a h).commands = s.commands := rfl
@[simp] theorem State.push_params (s : State) (a : Word) (h : s.sp.val < 16) : (s.push a h).params = s.params := rfl

/-! ### pop -/

@[simp] theorem State.pop_V (s : State) : (s.pop).V = s.V := rfl
@[simp] theorem State.pop_I (s : State) : (s.pop).I = s.I := rfl
@[simp] theorem State.pop_pc (s : State) : (s.pop).pc = s.pc := rfl
@[simp] theorem State.pop_sp (s : State) : (s.pop).sp = ⟨s.sp.val - 1, by omega⟩ := rfl
@[simp] theorem State.pop_stack (s : State) : (s.pop).stack = s.stack := rfl
@[simp] theorem State.pop_DT (s : State) : (s.pop).DT = s.DT := rfl
@[simp] theorem State.pop_mem (s : State) : (s.pop).mem = s.mem := rfl
@[simp] theorem State.pop_FB (s : State) : (s.pop).FB = s.FB := rfl
@[simp] theorem State.pop_KEY (s : State) : (s.pop).KEY = s.KEY := rfl
@[simp] theorem State.pop_fault (s : State) : (s.pop).fault = s.fault := rfl
@[simp] theorem State.pop_faultInfo (s : State) : (s.pop).faultInfo = s.faultInfo := rfl
@[simp] theorem State.pop_diagSeen (s : State) : (s.pop).diagSeen = s.diagSeen := rfl
@[simp] theorem State.pop_diagEvents (s : State) : (s.pop).diagEvents = s.diagEvents := rfl
@[simp] theorem State.pop_loadStatus (s : State) : (s.pop).loadStatus = s.loadStatus := rfl
@[simp] theorem State.pop_draws (s : State) : (s.pop).draws = s.draws := rfl
@[simp] theorem State.pop_commands (s : State) : (s.pop).commands = s.commands := rfl
@[simp] theorem State.pop_params (s : State) : (s.pop).params = s.params := rfl

/-! ### setFB -/

@[simp] theorem State.setFB_V (s : State) (fb : Vector (Vector Bool 64) 32) : (s.setFB fb).V = s.V := rfl
@[simp] theorem State.setFB_I (s : State) (fb : Vector (Vector Bool 64) 32) : (s.setFB fb).I = s.I := rfl
@[simp] theorem State.setFB_pc (s : State) (fb : Vector (Vector Bool 64) 32) : (s.setFB fb).pc = s.pc := rfl
@[simp] theorem State.setFB_sp (s : State) (fb : Vector (Vector Bool 64) 32) : (s.setFB fb).sp = s.sp := rfl
@[simp] theorem State.setFB_stack (s : State) (fb : Vector (Vector Bool 64) 32) : (s.setFB fb).stack = s.stack := rfl
@[simp] theorem State.setFB_DT (s : State) (fb : Vector (Vector Bool 64) 32) : (s.setFB fb).DT = s.DT := rfl
@[simp] theorem State.setFB_mem (s : State) (fb : Vector (Vector Bool 64) 32) : (s.setFB fb).mem = s.mem := rfl
@[simp] theorem State.setFB_FB (s : State) (fb : Vector (Vector Bool 64) 32) : (s.setFB fb).FB = fb := rfl
@[simp] theorem State.setFB_KEY (s : State) (fb : Vector (Vector Bool 64) 32) : (s.setFB fb).KEY = s.KEY := rfl
@[simp] theorem State.setFB_fault (s : State) (fb : Vector (Vector Bool 64) 32) : (s.setFB fb).fault = s.fault := rfl
@[simp] theorem State.setFB_faultInfo (s : State) (fb : Vector (Vector Bool 64) 32) : (s.setFB fb).faultInfo = s.faultInfo := rfl
@[simp] theorem State.setFB_diagSeen (s : State) (fb : Vector (Vector Bool 64) 32) : (s.setFB fb).diagSeen = s.diagSeen := rfl
@[simp] theorem State.setFB_diagEvents (s : State) (fb : Vector (Vector Bool 64) 32) : (s.setFB fb).diagEvents = s.diagEvents := rfl
@[simp] theorem State.setFB_loadStatus (s : State) (fb : Vector (Vector Bool 64) 32) : (s.setFB fb).loadStatus = s.loadStatus := rfl
@[simp] theorem State.setFB_draws (s : State) (fb : Vector (Vector Bool 64) 32) : (s.setFB fb).draws = s.draws := rfl
@[simp] theorem State.setFB_commands (s : State) (fb : Vector (Vector Bool 64) 32) : (s.setFB fb).commands = s.commands := rfl
@[simp] theorem State.setFB_params (s : State) (fb : Vector (Vector Bool 64) 32) : (s.setFB fb).params = s.params := rfl

/-! ### countDraw -/

@[simp] theorem State.countDraw_V (s : State) : (s.countDraw).V = s.V := rfl
@[simp] theorem State.countDraw_I (s : State) : (s.countDraw).I = s.I := rfl
@[simp] theorem State.countDraw_pc (s : State) : (s.countDraw).pc = s.pc := rfl
@[simp] theorem State.countDraw_sp (s : State) : (s.countDraw).sp = s.sp := rfl
@[simp] theorem State.countDraw_stack (s : State) : (s.countDraw).stack = s.stack := rfl
@[simp] theorem State.countDraw_DT (s : State) : (s.countDraw).DT = s.DT := rfl
@[simp] theorem State.countDraw_mem (s : State) : (s.countDraw).mem = s.mem := rfl
@[simp] theorem State.countDraw_FB (s : State) : (s.countDraw).FB = s.FB := rfl
@[simp] theorem State.countDraw_KEY (s : State) : (s.countDraw).KEY = s.KEY := rfl
@[simp] theorem State.countDraw_fault (s : State) : (s.countDraw).fault = s.fault := rfl
@[simp] theorem State.countDraw_faultInfo (s : State) : (s.countDraw).faultInfo = s.faultInfo := rfl
@[simp] theorem State.countDraw_diagSeen (s : State) : (s.countDraw).diagSeen = s.diagSeen := rfl
@[simp] theorem State.countDraw_diagEvents (s : State) : (s.countDraw).diagEvents = s.diagEvents := rfl
@[simp] theorem State.countDraw_loadStatus (s : State) : (s.countDraw).loadStatus = s.loadStatus := rfl
@[simp] theorem State.countDraw_draws (s : State) : (s.countDraw).draws = s.draws + 1 := rfl
@[simp] theorem State.countDraw_commands (s : State) : (s.countDraw).commands = s.commands := rfl
@[simp] theorem State.countDraw_params (s : State) : (s.countDraw).params = s.params := rfl

/-! ### writeByte -/

@[simp] theorem State.writeByte_V (s : State) (a : Nat) (v : Byte) : (s.writeByte a v).V = s.V := rfl
@[simp] theorem State.writeByte_I (s : State) (a : Nat) (v : Byte) : (s.writeByte a v).I = s.I := rfl
@[simp] theorem State.writeByte_pc (s : State) (a : Nat) (v : Byte) : (s.writeByte a v).pc = s.pc := rfl
@[simp] theorem State.writeByte_sp (s : State) (a : Nat) (v : Byte) : (s.writeByte a v).sp = s.sp := rfl
@[simp] theorem State.writeByte_stack (s : State) (a : Nat) (v : Byte) : (s.writeByte a v).stack = s.stack := rfl
@[simp] theorem State.writeByte_DT (s : State) (a : Nat) (v : Byte) : (s.writeByte a v).DT = s.DT := rfl
@[simp] theorem State.writeByte_mem (s : State) (a : Nat) (v : Byte) : (s.writeByte a v).mem = memWrite s.params s.mem a v := rfl
@[simp] theorem State.writeByte_FB (s : State) (a : Nat) (v : Byte) : (s.writeByte a v).FB = s.FB := rfl
@[simp] theorem State.writeByte_KEY (s : State) (a : Nat) (v : Byte) : (s.writeByte a v).KEY = s.KEY := rfl
@[simp] theorem State.writeByte_fault (s : State) (a : Nat) (v : Byte) : (s.writeByte a v).fault = s.fault := rfl
@[simp] theorem State.writeByte_faultInfo (s : State) (a : Nat) (v : Byte) : (s.writeByte a v).faultInfo = s.faultInfo := rfl
@[simp] theorem State.writeByte_diagSeen (s : State) (a : Nat) (v : Byte) : (s.writeByte a v).diagSeen = s.diagSeen := rfl
@[simp] theorem State.writeByte_diagEvents (s : State) (a : Nat) (v : Byte) : (s.writeByte a v).diagEvents = s.diagEvents := rfl
@[simp] theorem State.writeByte_loadStatus (s : State) (a : Nat) (v : Byte) : (s.writeByte a v).loadStatus = s.loadStatus := rfl
@[simp] theorem State.writeByte_draws (s : State) (a : Nat) (v : Byte) : (s.writeByte a v).draws = s.draws := rfl
@[simp] theorem State.writeByte_commands (s : State) (a : Nat) (v : Byte) : (s.writeByte a v).commands = s.commands := rfl
@[simp] theorem State.writeByte_params (s : State) (a : Nat) (v : Byte) : (s.writeByte a v).params = s.params := rfl

/-! ### raise -/

@[simp] theorem State.raise_V (s : State) (c : FaultCause) (o : Option Word) (d : FaultDetail) : (s.raise c o d).V = s.V := rfl
@[simp] theorem State.raise_I (s : State) (c : FaultCause) (o : Option Word) (d : FaultDetail) : (s.raise c o d).I = s.I := rfl
@[simp] theorem State.raise_pc (s : State) (c : FaultCause) (o : Option Word) (d : FaultDetail) : (s.raise c o d).pc = s.pc := rfl
@[simp] theorem State.raise_sp (s : State) (c : FaultCause) (o : Option Word) (d : FaultDetail) : (s.raise c o d).sp = s.sp := rfl
@[simp] theorem State.raise_stack (s : State) (c : FaultCause) (o : Option Word) (d : FaultDetail) : (s.raise c o d).stack = s.stack := rfl
@[simp] theorem State.raise_DT (s : State) (c : FaultCause) (o : Option Word) (d : FaultDetail) : (s.raise c o d).DT = s.DT := rfl
@[simp] theorem State.raise_mem (s : State) (c : FaultCause) (o : Option Word) (d : FaultDetail) : (s.raise c o d).mem = s.mem := rfl
@[simp] theorem State.raise_FB (s : State) (c : FaultCause) (o : Option Word) (d : FaultDetail) : (s.raise c o d).FB = s.FB := rfl
@[simp] theorem State.raise_KEY (s : State) (c : FaultCause) (o : Option Word) (d : FaultDetail) : (s.raise c o d).KEY = s.KEY := rfl
@[simp] theorem State.raise_fault (s : State) (c : FaultCause) (o : Option Word) (d : FaultDetail) : (s.raise c o d).fault = c := rfl
@[simp] theorem State.raise_faultInfo (s : State) (c : FaultCause) (o : Option Word) (d : FaultDetail) : (s.raise c o d).faultInfo = some { pc := s.pc, opcode := o, detail := d } := rfl
@[simp] theorem State.raise_diagSeen (s : State) (c : FaultCause) (o : Option Word) (d : FaultDetail) : (s.raise c o d).diagSeen = s.diagSeen := rfl
@[simp] theorem State.raise_diagEvents (s : State) (c : FaultCause) (o : Option Word) (d : FaultDetail) : (s.raise c o d).diagEvents = s.diagEvents := rfl
@[simp] theorem State.raise_loadStatus (s : State) (c : FaultCause) (o : Option Word) (d : FaultDetail) : (s.raise c o d).loadStatus = s.loadStatus := rfl
@[simp] theorem State.raise_draws (s : State) (c : FaultCause) (o : Option Word) (d : FaultDetail) : (s.raise c o d).draws = s.draws := rfl
@[simp] theorem State.raise_commands (s : State) (c : FaultCause) (o : Option Word) (d : FaultDetail) : (s.raise c o d).commands = s.commands := rfl
@[simp] theorem State.raise_params (s : State) (c : FaultCause) (o : Option Word) (d : FaultDetail) : (s.raise c o d).params = s.params := rfl

/-! ### emitUnimplemented -/

@[simp] theorem State.emitUnimplemented_V (s : State) (op : Word) : (s.emitUnimplemented op).V = s.V := rfl
@[simp] theorem State.emitUnimplemented_I (s : State) (op : Word) : (s.emitUnimplemented op).I = s.I := rfl
@[simp] theorem State.emitUnimplemented_pc (s : State) (op : Word) : (s.emitUnimplemented op).pc = s.pc := rfl
@[simp] theorem State.emitUnimplemented_sp (s : State) (op : Word) : (s.emitUnimplemented op).sp = s.sp := rfl
@[simp] theorem State.emitUnimplemented_stack (s : State) (op : Word) : (s.emitUnimplemented op).stack = s.stack := rfl
@[simp] theorem State.emitUnimplemented_DT (s : State) (op : Word) : (s.emitUnimplemented op).DT = s.DT := rfl
@[simp] theorem State.emitUnimplemented_mem (s : State) (op : Word) : (s.emitUnimplemented op).mem = s.mem := rfl
@[simp] theorem State.emitUnimplemented_FB (s : State) (op : Word) : (s.emitUnimplemented op).FB = s.FB := rfl
@[simp] theorem State.emitUnimplemented_KEY (s : State) (op : Word) : (s.emitUnimplemented op).KEY = s.KEY := rfl
@[simp] theorem State.emitUnimplemented_fault (s : State) (op : Word) : (s.emitUnimplemented op).fault = s.fault := rfl
@[simp] theorem State.emitUnimplemented_faultInfo (s : State) (op : Word) : (s.emitUnimplemented op).faultInfo = s.faultInfo := rfl
@[simp] theorem State.emitUnimplemented_diagSeen (s : State) (op : Word) : (s.emitUnimplemented op).diagSeen = true := rfl
@[simp] theorem State.emitUnimplemented_diagEvents (s : State) (op : Word) : (s.emitUnimplemented op).diagEvents = { pc := s.pc, op := op } :: s.diagEvents := rfl
@[simp] theorem State.emitUnimplemented_loadStatus (s : State) (op : Word) : (s.emitUnimplemented op).loadStatus = s.loadStatus := rfl
@[simp] theorem State.emitUnimplemented_draws (s : State) (op : Word) : (s.emitUnimplemented op).draws = s.draws := rfl
@[simp] theorem State.emitUnimplemented_commands (s : State) (op : Word) : (s.emitUnimplemented op).commands = s.commands := rfl
@[simp] theorem State.emitUnimplemented_params (s : State) (op : Word) : (s.emitUnimplemented op).params = s.params := rfl

/-! ### setKEY -/

@[simp] theorem State.setKEY_V (s : State) (v : BitVec 16) : (s.setKEY v).V = s.V := rfl
@[simp] theorem State.setKEY_I (s : State) (v : BitVec 16) : (s.setKEY v).I = s.I := rfl
@[simp] theorem State.setKEY_pc (s : State) (v : BitVec 16) : (s.setKEY v).pc = s.pc := rfl
@[simp] theorem State.setKEY_sp (s : State) (v : BitVec 16) : (s.setKEY v).sp = s.sp := rfl
@[simp] theorem State.setKEY_stack (s : State) (v : BitVec 16) : (s.setKEY v).stack = s.stack := rfl
@[simp] theorem State.setKEY_DT (s : State) (v : BitVec 16) : (s.setKEY v).DT = s.DT := rfl
@[simp] theorem State.setKEY_mem (s : State) (v : BitVec 16) : (s.setKEY v).mem = s.mem := rfl
@[simp] theorem State.setKEY_FB (s : State) (v : BitVec 16) : (s.setKEY v).FB = s.FB := rfl
@[simp] theorem State.setKEY_KEY (s : State) (v : BitVec 16) : (s.setKEY v).KEY = v := rfl
@[simp] theorem State.setKEY_fault (s : State) (v : BitVec 16) : (s.setKEY v).fault = s.fault := rfl
@[simp] theorem State.setKEY_faultInfo (s : State) (v : BitVec 16) : (s.setKEY v).faultInfo = s.faultInfo := rfl
@[simp] theorem State.setKEY_diagSeen (s : State) (v : BitVec 16) : (s.setKEY v).diagSeen = s.diagSeen := rfl
@[simp] theorem State.setKEY_diagEvents (s : State) (v : BitVec 16) : (s.setKEY v).diagEvents = s.diagEvents := rfl
@[simp] theorem State.setKEY_loadStatus (s : State) (v : BitVec 16) : (s.setKEY v).loadStatus = s.loadStatus := rfl
@[simp] theorem State.setKEY_draws (s : State) (v : BitVec 16) : (s.setKEY v).draws = s.draws := rfl
@[simp] theorem State.setKEY_commands (s : State) (v : BitVec 16) : (s.setKEY v).commands = s.commands := rfl
@[simp] theorem State.setKEY_params (s : State) (v : BitVec 16) : (s.setKEY v).params = s.params := rfl

/-! ### setCommands -/

@[simp] theorem State.setCommands_V (s : State) (cs : List Command) : (s.setCommands cs).V = s.V := rfl
@[simp] theorem State.setCommands_I (s : State) (cs : List Command) : (s.setCommands cs).I = s.I := rfl
@[simp] theorem State.setCommands_pc (s : State) (cs : List Command) : (s.setCommands cs).pc = s.pc := rfl
@[simp] theorem State.setCommands_sp (s : State) (cs : List Command) : (s.setCommands cs).sp = s.sp := rfl
@[simp] theorem State.setCommands_stack (s : State) (cs : List Command) : (s.setCommands cs).stack = s.stack := rfl
@[simp] theorem State.setCommands_DT (s : State) (cs : List Command) : (s.setCommands cs).DT = s.DT := rfl
@[simp] theorem State.setCommands_mem (s : State) (cs : List Command) : (s.setCommands cs).mem = s.mem := rfl
@[simp] theorem State.setCommands_FB (s : State) (cs : List Command) : (s.setCommands cs).FB = s.FB := rfl
@[simp] theorem State.setCommands_KEY (s : State) (cs : List Command) : (s.setCommands cs).KEY = s.KEY := rfl
@[simp] theorem State.setCommands_fault (s : State) (cs : List Command) : (s.setCommands cs).fault = s.fault := rfl
@[simp] theorem State.setCommands_faultInfo (s : State) (cs : List Command) : (s.setCommands cs).faultInfo = s.faultInfo := rfl
@[simp] theorem State.setCommands_diagSeen (s : State) (cs : List Command) : (s.setCommands cs).diagSeen = s.diagSeen := rfl
@[simp] theorem State.setCommands_diagEvents (s : State) (cs : List Command) : (s.setCommands cs).diagEvents = s.diagEvents := rfl
@[simp] theorem State.setCommands_loadStatus (s : State) (cs : List Command) : (s.setCommands cs).loadStatus = s.loadStatus := rfl
@[simp] theorem State.setCommands_draws (s : State) (cs : List Command) : (s.setCommands cs).draws = s.draws := rfl
@[simp] theorem State.setCommands_commands (s : State) (cs : List Command) : (s.setCommands cs).commands = cs := rfl
@[simp] theorem State.setCommands_params (s : State) (cs : List Command) : (s.setCommands cs).params = s.params := rfl

/-! ### setLoadStatus -/

@[simp] theorem State.setLoadStatus_V (s : State) (l : LoadStatus) : (s.setLoadStatus l).V = s.V := rfl
@[simp] theorem State.setLoadStatus_I (s : State) (l : LoadStatus) : (s.setLoadStatus l).I = s.I := rfl
@[simp] theorem State.setLoadStatus_pc (s : State) (l : LoadStatus) : (s.setLoadStatus l).pc = s.pc := rfl
@[simp] theorem State.setLoadStatus_sp (s : State) (l : LoadStatus) : (s.setLoadStatus l).sp = s.sp := rfl
@[simp] theorem State.setLoadStatus_stack (s : State) (l : LoadStatus) : (s.setLoadStatus l).stack = s.stack := rfl
@[simp] theorem State.setLoadStatus_DT (s : State) (l : LoadStatus) : (s.setLoadStatus l).DT = s.DT := rfl
@[simp] theorem State.setLoadStatus_mem (s : State) (l : LoadStatus) : (s.setLoadStatus l).mem = s.mem := rfl
@[simp] theorem State.setLoadStatus_FB (s : State) (l : LoadStatus) : (s.setLoadStatus l).FB = s.FB := rfl
@[simp] theorem State.setLoadStatus_KEY (s : State) (l : LoadStatus) : (s.setLoadStatus l).KEY = s.KEY := rfl
@[simp] theorem State.setLoadStatus_fault (s : State) (l : LoadStatus) : (s.setLoadStatus l).fault = s.fault := rfl
@[simp] theorem State.setLoadStatus_faultInfo (s : State) (l : LoadStatus) : (s.setLoadStatus l).faultInfo = s.faultInfo := rfl
@[simp] theorem State.setLoadStatus_diagSeen (s : State) (l : LoadStatus) : (s.setLoadStatus l).diagSeen = s.diagSeen := rfl
@[simp] theorem State.setLoadStatus_diagEvents (s : State) (l : LoadStatus) : (s.setLoadStatus l).diagEvents = s.diagEvents := rfl
@[simp] theorem State.setLoadStatus_loadStatus (s : State) (l : LoadStatus) : (s.setLoadStatus l).loadStatus = some l := rfl
@[simp] theorem State.setLoadStatus_draws (s : State) (l : LoadStatus) : (s.setLoadStatus l).draws = s.draws := rfl
@[simp] theorem State.setLoadStatus_commands (s : State) (l : LoadStatus) : (s.setLoadStatus l).commands = s.commands := rfl
@[simp] theorem State.setLoadStatus_params (s : State) (l : LoadStatus) : (s.setLoadStatus l).params = s.params := rfl

/-! ### toReset -/

@[simp] theorem State.toReset_V (s : State) : (s.toReset).V = State.reset.V := rfl
@[simp] theorem State.toReset_I (s : State) : (s.toReset).I = State.reset.I := rfl
@[simp] theorem State.toReset_pc (s : State) : (s.toReset).pc = State.reset.pc := rfl
@[simp] theorem State.toReset_sp (s : State) : (s.toReset).sp = State.reset.sp := rfl
@[simp] theorem State.toReset_stack (s : State) : (s.toReset).stack = State.reset.stack := rfl
@[simp] theorem State.toReset_DT (s : State) : (s.toReset).DT = State.reset.DT := rfl
@[simp] theorem State.toReset_mem (s : State) : (s.toReset).mem = State.reset.mem := rfl
@[simp] theorem State.toReset_FB (s : State) : (s.toReset).FB = State.reset.FB := rfl
@[simp] theorem State.toReset_KEY (s : State) : (s.toReset).KEY = State.reset.KEY := rfl
@[simp] theorem State.toReset_fault (s : State) : (s.toReset).fault = State.reset.fault := rfl
@[simp] theorem State.toReset_faultInfo (s : State) : (s.toReset).faultInfo = State.reset.faultInfo := rfl
@[simp] theorem State.toReset_diagSeen (s : State) : (s.toReset).diagSeen = State.reset.diagSeen := rfl
@[simp] theorem State.toReset_diagEvents (s : State) : (s.toReset).diagEvents = State.reset.diagEvents := rfl
@[simp] theorem State.toReset_loadStatus (s : State) : (s.toReset).loadStatus = State.reset.loadStatus := rfl
@[simp] theorem State.toReset_draws (s : State) : (s.toReset).draws = s.draws := rfl
@[simp] theorem State.toReset_commands (s : State) : (s.toReset).commands = s.commands := rfl
@[simp] theorem State.toReset_params (s : State) : (s.toReset).params = s.params := rfl

/-! ### Updates made of several writes -/

/-- `writeBytes` changes memory alone. -/
theorem State.writeBytes_eq (s : State) (a : Nat) (vs : List Byte) :
    s.writeBytes a vs = { s with mem := (s.writeBytes a vs).mem } := by
  induction vs generalizing s a with
  | nil => rfl
  | cons v vs ih => simpa [State.writeBytes] using ih (s.writeByte a v) (a + 1)

/-- `loadRegs` changes the general registers alone. -/
theorem State.loadRegs_eq (s : State) (a : Nat) (ks : List Reg) :
    s.loadRegs a ks = { s with V := (s.loadRegs a ks).V } := by
  induction ks generalizing s with
  | nil => rfl
  | cons k ks ih => simpa [State.loadRegs] using ih (s.setV k (s.readByte (a + k.val)))

/-- `writeFlagged` changes the general registers alone. -/
theorem State.writeFlagged_eq (s : State) (x : Reg) (flag : Byte) (op : State → Byte) :
    s.writeFlagged x flag op = { s with V := (s.writeFlagged x flag op).V } := by
  unfold State.writeFlagged
  split <;> rfl

/-! ### writeBytes -/

@[simp] theorem State.writeBytes_V (s : State) (a : Nat) (vs : List Byte) : (s.writeBytes a vs).V = s.V := by rw [State.writeBytes_eq]
@[simp] theorem State.writeBytes_I (s : State) (a : Nat) (vs : List Byte) : (s.writeBytes a vs).I = s.I := by rw [State.writeBytes_eq]
@[simp] theorem State.writeBytes_pc (s : State) (a : Nat) (vs : List Byte) : (s.writeBytes a vs).pc = s.pc := by rw [State.writeBytes_eq]
@[simp] theorem State.writeBytes_sp (s : State) (a : Nat) (vs : List Byte) : (s.writeBytes a vs).sp = s.sp := by rw [State.writeBytes_eq]
@[simp] theorem State.writeBytes_stack (s : State) (a : Nat) (vs : List Byte) : (s.writeBytes a vs).stack = s.stack := by rw [State.writeBytes_eq]
@[simp] theorem State.writeBytes_DT (s : State) (a : Nat) (vs : List Byte) : (s.writeBytes a vs).DT = s.DT := by rw [State.writeBytes_eq]
@[simp] theorem State.writeBytes_FB (s : State) (a : Nat) (vs : List Byte) : (s.writeBytes a vs).FB = s.FB := by rw [State.writeBytes_eq]
@[simp] theorem State.writeBytes_KEY (s : State) (a : Nat) (vs : List Byte) : (s.writeBytes a vs).KEY = s.KEY := by rw [State.writeBytes_eq]
@[simp] theorem State.writeBytes_fault (s : State) (a : Nat) (vs : List Byte) : (s.writeBytes a vs).fault = s.fault := by rw [State.writeBytes_eq]
@[simp] theorem State.writeBytes_faultInfo (s : State) (a : Nat) (vs : List Byte) : (s.writeBytes a vs).faultInfo = s.faultInfo := by rw [State.writeBytes_eq]
@[simp] theorem State.writeBytes_diagSeen (s : State) (a : Nat) (vs : List Byte) : (s.writeBytes a vs).diagSeen = s.diagSeen := by rw [State.writeBytes_eq]
@[simp] theorem State.writeBytes_diagEvents (s : State) (a : Nat) (vs : List Byte) : (s.writeBytes a vs).diagEvents = s.diagEvents := by rw [State.writeBytes_eq]
@[simp] theorem State.writeBytes_loadStatus (s : State) (a : Nat) (vs : List Byte) : (s.writeBytes a vs).loadStatus = s.loadStatus := by rw [State.writeBytes_eq]
@[simp] theorem State.writeBytes_draws (s : State) (a : Nat) (vs : List Byte) : (s.writeBytes a vs).draws = s.draws := by rw [State.writeBytes_eq]
@[simp] theorem State.writeBytes_commands (s : State) (a : Nat) (vs : List Byte) : (s.writeBytes a vs).commands = s.commands := by rw [State.writeBytes_eq]
@[simp] theorem State.writeBytes_params (s : State) (a : Nat) (vs : List Byte) : (s.writeBytes a vs).params = s.params := by rw [State.writeBytes_eq]

/-! ### loadRegs -/

@[simp] theorem State.loadRegs_I (s : State) (a : Nat) (ks : List Reg) : (s.loadRegs a ks).I = s.I := by rw [State.loadRegs_eq]
@[simp] theorem State.loadRegs_pc (s : State) (a : Nat) (ks : List Reg) : (s.loadRegs a ks).pc = s.pc := by rw [State.loadRegs_eq]
@[simp] theorem State.loadRegs_sp (s : State) (a : Nat) (ks : List Reg) : (s.loadRegs a ks).sp = s.sp := by rw [State.loadRegs_eq]
@[simp] theorem State.loadRegs_stack (s : State) (a : Nat) (ks : List Reg) : (s.loadRegs a ks).stack = s.stack := by rw [State.loadRegs_eq]
@[simp] theorem State.loadRegs_DT (s : State) (a : Nat) (ks : List Reg) : (s.loadRegs a ks).DT = s.DT := by rw [State.loadRegs_eq]
@[simp] theorem State.loadRegs_mem (s : State) (a : Nat) (ks : List Reg) : (s.loadRegs a ks).mem = s.mem := by rw [State.loadRegs_eq]
@[simp] theorem State.loadRegs_FB (s : State) (a : Nat) (ks : List Reg) : (s.loadRegs a ks).FB = s.FB := by rw [State.loadRegs_eq]
@[simp] theorem State.loadRegs_KEY (s : State) (a : Nat) (ks : List Reg) : (s.loadRegs a ks).KEY = s.KEY := by rw [State.loadRegs_eq]
@[simp] theorem State.loadRegs_fault (s : State) (a : Nat) (ks : List Reg) : (s.loadRegs a ks).fault = s.fault := by rw [State.loadRegs_eq]
@[simp] theorem State.loadRegs_faultInfo (s : State) (a : Nat) (ks : List Reg) : (s.loadRegs a ks).faultInfo = s.faultInfo := by rw [State.loadRegs_eq]
@[simp] theorem State.loadRegs_diagSeen (s : State) (a : Nat) (ks : List Reg) : (s.loadRegs a ks).diagSeen = s.diagSeen := by rw [State.loadRegs_eq]
@[simp] theorem State.loadRegs_diagEvents (s : State) (a : Nat) (ks : List Reg) : (s.loadRegs a ks).diagEvents = s.diagEvents := by rw [State.loadRegs_eq]
@[simp] theorem State.loadRegs_loadStatus (s : State) (a : Nat) (ks : List Reg) : (s.loadRegs a ks).loadStatus = s.loadStatus := by rw [State.loadRegs_eq]
@[simp] theorem State.loadRegs_draws (s : State) (a : Nat) (ks : List Reg) : (s.loadRegs a ks).draws = s.draws := by rw [State.loadRegs_eq]
@[simp] theorem State.loadRegs_commands (s : State) (a : Nat) (ks : List Reg) : (s.loadRegs a ks).commands = s.commands := by rw [State.loadRegs_eq]
@[simp] theorem State.loadRegs_params (s : State) (a : Nat) (ks : List Reg) : (s.loadRegs a ks).params = s.params := by rw [State.loadRegs_eq]

/-! ### writeFlagged -/

@[simp] theorem State.writeFlagged_I (s : State) (x : Reg) (flag : Byte) (op : State → Byte) : (s.writeFlagged x flag op).I = s.I := by rw [State.writeFlagged_eq]
@[simp] theorem State.writeFlagged_pc (s : State) (x : Reg) (flag : Byte) (op : State → Byte) : (s.writeFlagged x flag op).pc = s.pc := by rw [State.writeFlagged_eq]
@[simp] theorem State.writeFlagged_sp (s : State) (x : Reg) (flag : Byte) (op : State → Byte) : (s.writeFlagged x flag op).sp = s.sp := by rw [State.writeFlagged_eq]
@[simp] theorem State.writeFlagged_stack (s : State) (x : Reg) (flag : Byte) (op : State → Byte) : (s.writeFlagged x flag op).stack = s.stack := by rw [State.writeFlagged_eq]
@[simp] theorem State.writeFlagged_DT (s : State) (x : Reg) (flag : Byte) (op : State → Byte) : (s.writeFlagged x flag op).DT = s.DT := by rw [State.writeFlagged_eq]
@[simp] theorem State.writeFlagged_mem (s : State) (x : Reg) (flag : Byte) (op : State → Byte) : (s.writeFlagged x flag op).mem = s.mem := by rw [State.writeFlagged_eq]
@[simp] theorem State.writeFlagged_FB (s : State) (x : Reg) (flag : Byte) (op : State → Byte) : (s.writeFlagged x flag op).FB = s.FB := by rw [State.writeFlagged_eq]
@[simp] theorem State.writeFlagged_KEY (s : State) (x : Reg) (flag : Byte) (op : State → Byte) : (s.writeFlagged x flag op).KEY = s.KEY := by rw [State.writeFlagged_eq]
@[simp] theorem State.writeFlagged_fault (s : State) (x : Reg) (flag : Byte) (op : State → Byte) : (s.writeFlagged x flag op).fault = s.fault := by rw [State.writeFlagged_eq]
@[simp] theorem State.writeFlagged_faultInfo (s : State) (x : Reg) (flag : Byte) (op : State → Byte) : (s.writeFlagged x flag op).faultInfo = s.faultInfo := by rw [State.writeFlagged_eq]
@[simp] theorem State.writeFlagged_diagSeen (s : State) (x : Reg) (flag : Byte) (op : State → Byte) : (s.writeFlagged x flag op).diagSeen = s.diagSeen := by rw [State.writeFlagged_eq]
@[simp] theorem State.writeFlagged_diagEvents (s : State) (x : Reg) (flag : Byte) (op : State → Byte) : (s.writeFlagged x flag op).diagEvents = s.diagEvents := by rw [State.writeFlagged_eq]
@[simp] theorem State.writeFlagged_loadStatus (s : State) (x : Reg) (flag : Byte) (op : State → Byte) : (s.writeFlagged x flag op).loadStatus = s.loadStatus := by rw [State.writeFlagged_eq]
@[simp] theorem State.writeFlagged_draws (s : State) (x : Reg) (flag : Byte) (op : State → Byte) : (s.writeFlagged x flag op).draws = s.draws := by rw [State.writeFlagged_eq]
@[simp] theorem State.writeFlagged_commands (s : State) (x : Reg) (flag : Byte) (op : State → Byte) : (s.writeFlagged x flag op).commands = s.commands := by rw [State.writeFlagged_eq]
@[simp] theorem State.writeFlagged_params (s : State) (x : Reg) (flag : Byte) (op : State → Byte) : (s.writeFlagged x flag op).params = s.params := by rw [State.writeFlagged_eq]

end Sys2Proof.Machine
end

