-- ==== Sys2Proof/Laws/Memory.lean ====
section
/-! SUPPORT. Sys2Proof/Laws/Memory.lean: reading after writing, and that every memory operation keeps the canonical form. -/

namespace Sys2Proof.Machine

/-! ### The list of cells -/

theorem memLookup_memInsert (m : List Host.Cell) (a : Nat) (v : Byte) (b : Nat) :
    memLookup (memInsert a v m) b = if b = a then some v else memLookup m b := by
  induction m with
  | nil =>
    by_cases hb : b = a
    · simp [memInsert, memLookup, hb]
    · simp [memInsert, memLookup, hb, Ne.symm hb]
  | cons c m ih =>
    obtain ⟨k, w⟩ := c
    by_cases hb : b = a
    · subst hb
      rw [if_pos rfl] at ih ⊢
      simp only [memInsert]
      split
      · simp [memLookup]
      · split
        · simp [memLookup]
        · rename_i hk; simp [memLookup, Ne.symm hk, ih]
    · rw [if_neg hb] at ih ⊢
      simp only [memInsert]
      split
      · simp [memLookup, Ne.symm hb]
      · split
        · subst_vars; simp [memLookup, Ne.symm hb]
        · simp [memLookup, ih]

theorem memLookup_memRemove (m : List Host.Cell) (a b : Nat) :
    memLookup (memRemove a m) b = if b = a then none else memLookup m b := by
  induction m with
  | nil => simp [memRemove, memLookup]
  | cons c m ih =>
    obtain ⟨k, w⟩ := c
    by_cases hk : k = a
    · subst hk
      rw [memRemove, if_pos rfl, ih]
      by_cases hb : b = k
      · simp [hb]
      · simp [memLookup, hb, Ne.symm hb]
    · rw [memRemove, if_neg hk, memLookup, ih, memLookup]
      by_cases hb : b = a
      · subst hb; simp [hk]
      · simp [hb]

/-- Reading after a write: the byte written at its address, every other byte as before. -/
theorem memRead_memWrite (p : Params) (m : List Host.Cell) (a : Nat) (v : Byte) (b : Nat) :
    memRead p (memWrite p m a v) b = if b = a ∧ a ≤ 4095 then v else memRead p m b := by
  unfold memRead memWrite
  split
  · rw [if_neg (by omega)]
  · split
    · rw [memLookup_memRemove]; split <;> simp_all
    · rw [memLookup_memInsert]; split <;> simp_all

/-! ### The canonical form -/

theorem memWfFrom_mono {p : Params} {low low' : Nat} {m : List Host.Cell} (hl : low' ≤ low)
    (h : memWfFrom p low m = true) : memWfFrom p low' m = true := by
  cases m with
  | nil => rfl
  | cons c m =>
    obtain ⟨k, w⟩ := c
    simp only [memWfFrom, Bool.and_eq_true, decide_eq_true_eq] at h ⊢
    exact ⟨⟨⟨hl.trans h.1.1.1, h.1.1.2⟩, h.1.2⟩, h.2⟩

theorem memWfFrom_memInsert {p : Params} {low a : Nat} {v : Byte} {m : List Host.Cell} (hla : low ≤ a)
    (ha : a ≤ 4095) (hv : v ≠ resetByte p a) (h : memWfFrom p low m = true) :
    memWfFrom p low (memInsert a v m) = true := by
  induction m generalizing low with
  | nil => simp [memInsert, memWfFrom, hla, ha, hv]
  | cons c m ih =>
    obtain ⟨k, w⟩ := c
    simp only [memInsert]
    simp only [memWfFrom, Bool.and_eq_true, decide_eq_true_eq, bne_iff_ne] at h
    obtain ⟨⟨⟨h1, h2⟩, h3⟩, h4⟩ := h
    split
    · simp_all [memWfFrom]
    · split
      · subst_vars; simp_all [memWfFrom]
      · have := ih (low := k + 1) (by omega) h4
        simp_all [memWfFrom]

theorem memWfFrom_memRemove {p : Params} {low a : Nat} {m : List Host.Cell} (h : memWfFrom p low m = true) :
    memWfFrom p low (memRemove a m) = true := by
  induction m generalizing low with
  | nil => rfl
  | cons c m ih =>
    obtain ⟨k, w⟩ := c
    simp only [memWfFrom, Bool.and_eq_true, decide_eq_true_eq, bne_iff_ne] at h
    obtain ⟨⟨⟨h1, h2⟩, h3⟩, h4⟩ := h
    simp only [memRemove]
    split
    · exact memWfFrom_mono (by omega) (ih h4)
    · have := ih h4
      simp_all [memWfFrom]

/-- A write keeps the canonical form. -/
theorem memWf_memWrite {p : Params} {m : List Host.Cell} (a : Nat) (v : Byte) (h : memWf p m = true) :
    memWf p (memWrite p m a v) = true := by
  unfold memWrite
  split
  · exact h
  · split
    · exact memWfFrom_memRemove h
    · exact memWfFrom_memInsert (Nat.zero_le _) (by omega) ‹_› h

/-- The memory after reset is in canonical form. -/
theorem memWf_reset : memWf State.reset.params State.reset.mem = true := rfl

/-! ### The state's memory -/

theorem State.readByte_writeByte (s : State) (a : Nat) (v : Byte) (b : Nat) :
    (s.writeByte a v).readByte b = if b = a ∧ a ≤ 4095 then v else s.readByte b :=
  memRead_memWrite s.params s.mem a v b

/-- Reading after a block of bytes was written: inside the block and the address space its bytes, elsewhere as before. -/
theorem State.readByte_writeBytes (s : State) (a : Nat) (vs : List Byte) (b : Nat) :
    (s.writeBytes a vs).readByte b = if a ≤ b ∧ b < a + vs.length ∧ b ≤ 4095 then vs.getD (b - a) 0 else s.readByte b := by
  induction vs generalizing s a with
  | nil => rw [if_neg (by simp; omega)]; rfl
  | cons v vs ih =>
    simp only [State.writeBytes, ih, State.readByte_writeByte, List.length_cons]
    by_cases hb : b = a
    · subst hb
      rw [if_neg (by omega)]
      by_cases h : b ≤ 4095
      · rw [if_pos ⟨rfl, h⟩, if_pos (by omega)]; simp
      · rw [if_neg (by omega), if_neg (by omega)]
    · rw [if_neg (c := b = a ∧ a ≤ 4095) (by omega)]
      by_cases h : a + 1 ≤ b ∧ b < a + 1 + vs.length ∧ b ≤ 4095
      · rw [if_pos h, if_pos (by omega)]
        obtain ⟨k, rfl⟩ : ∃ k, b = a + 1 + k := ⟨b - (a + 1), by omega⟩
        rw [show a + 1 + k - (a + 1) = k by omega, show a + 1 + k - a = k + 1 by omega]
        rfl
      · rw [if_neg h, if_neg (by omega)]

/-- A block of bytes written keeps the canonical form. -/
theorem State.memWf_writeBytes {s : State} (a : Nat) (vs : List Byte) (h : memWf s.params s.mem = true) :
    memWf s.params (s.writeBytes a vs).mem = true := by
  induction vs generalizing s a with
  | nil => exact h
  | cons v vs ih => exact ih (s := s.writeByte a v) (a + 1) (memWf_memWrite a v h)

/-- Reading depends on the parameters and the memory alone. -/
theorem State.readByte_congr {s t : State} (hp : t.params = s.params) (hm : t.mem = s.mem) (a : Nat) :
    t.readByte a = s.readByte a := by simp only [State.readByte, hp, hm]

theorem inRange_iff (first count : Nat) : inRange first count = true ↔ count = 0 ∨ first + count - 1 ≤ 4095 := by
  simp [inRange]

end Sys2Proof.Machine
end

