-- ==== Sys2Proof/Laws/Ops.lean ====
section
/-! SUPPORT. Sys2Proof/Laws/Ops.lean: for each shared operation over registers, stack, flags, keys and the fetch, what it
does, said once. -/

namespace Sys2Proof.Machine

/-! ### General registers -/

theorem State.getV_setV (s : State) (r : Reg) (v : Byte) (q : Reg) :
    (s.setV r v).getV q = if q = r then v else s.getV q := by
  by_cases h : q = r
  · subst h; simp [State.getV, State.setV]
  · have : r.val ≠ q.val := fun e => h (Fin.ext e.symm)
    simp [State.getV, State.setV, h, Vector.getElem_set_ne _ _ this]

@[simp] theorem State.getV_setV_same (s : State) (r : Reg) (v : Byte) : (s.setV r v).getV r = v := by
  simp [State.getV_setV]

theorem State.getV_setV_ne (s : State) {r q : Reg} (v : Byte) (h : q ≠ r) : (s.setV r v).getV q = s.getV q := by
  simp [State.getV_setV, h]

/-- Reading a register depends on the register file alone. -/
theorem State.getV_congr {s t : State} (h : t.V = s.V) (r : Reg) : t.getV r = s.getV r := by
  simp only [State.getV, h]

/-- A register is below the count exactly when it is one of `V[0]` to `V[x]`. -/
theorem mem_regsUpTo (x k : Reg) : k ∈ regsUpTo x ↔ k ≤ x := by revert x k; decide

theorem regsUpTo_length (x : Reg) : (regsUpTo x).length = x.val + 1 := by revert x; decide

theorem regsUpTo_getElem (x k : Reg) (h : k ≤ x) : (regsUpTo x)[k.val]? = some k := by
  revert x k; decide

theorem State.regBytes_length (s : State) (x : Reg) : (s.regBytes x).length = x.val + 1 := by
  simp [State.regBytes, regsUpTo_length]

/-- Byte `k` of the values of `V[0]` to `V[x]` is `V[k]`. -/
theorem State.regBytes_getD (s : State) (x k : Reg) (h : k ≤ x) : (s.regBytes x).getD k.val 0 = s.getV k := by
  simp [State.regBytes, List.getD, regsUpTo_getElem x k h]

/-- After loading the registers of a list, each of them holds the byte at its own distance from the address, whatever the
order, and every other register is as before. -/
theorem State.getV_loadRegs (s : State) (a : Nat) (ks : List Reg) (r : Reg) :
    (s.loadRegs a ks).getV r = if r ∈ ks then s.readByte (a + r.val) else s.getV r := by
  induction ks generalizing s with
  | nil => simp [State.loadRegs]
  | cons k ks ih =>
    have hb : (s.setV k (s.readByte (a + k.val))).readByte (a + r.val) = s.readByte (a + r.val) := rfl
    rw [State.loadRegs, ih, hb]
    by_cases h : r ∈ ks
    · simp [h]
    · by_cases hk : r = k
      · subst hk; simp [h]
      · simp [h, hk, State.getV_setV]

/-! ### The flag and the result (R163) -/

/-- Under `flag_first` a register other than `V[x]` and VF is unchanged, VF holds the flag unless it is `V[x]`, and `V[x]`
holds the operation applied to the registers after the flag was written. -/
theorem State.getV_writeFlagged_flagFirst {s : State} (h : s.params.vfOrder = .flagFirst) (x : Reg) (flag : Byte)
    (op : State → Byte) (r : Reg) :
    (s.writeFlagged x flag op).getV r
      = if r = x then op (s.setV VF flag) else if r = VF then flag else s.getV r := by
  rw [State.writeFlagged, h]
  simp only [State.getV_setV]

/-- Under `result_last` VF holds the flag, and `V[x]` otherwise holds the operation applied to the old registers. -/
theorem State.getV_writeFlagged_resultLast {s : State} (h : s.params.vfOrder = .resultLast) (x : Reg) (flag : Byte)
    (op : State → Byte) (r : Reg) :
    (s.writeFlagged x flag op).getV r
      = if r = VF then flag else if r = x then op s else s.getV r := by
  rw [State.writeFlagged, h]
  simp only [State.getV_setV]

/-- When VF is not `V[x]` and writing VF does not change what the operation computes, both orders give the plain result. -/
theorem State.getV_writeFlagged_plain {s : State} {x : Reg} (hx : x ≠ VF) {flag : Byte} {op : State → Byte}
    (hop : op (s.setV VF flag) = op s) (r : Reg) :
    (s.writeFlagged x flag op).getV r = if r = x then op s else if r = VF then flag else s.getV r := by
  cases h : s.params.vfOrder with
  | flagFirst => rw [State.getV_writeFlagged_flagFirst h, hop]
  | resultLast =>
    rw [State.getV_writeFlagged_resultLast h]
    by_cases hr : r = x
    · subst hr; simp [hx]
    · simp [hr]

/-! ### The call stack -/

theorem State.push_stack_get (s : State) (a : Word) (h : s.sp.val < 16) (k : Fin 16) :
    (s.push a h).stack[k] = if k.val = s.sp.val then a else s.stack[k] := by
  by_cases hk : k.val = s.sp.val
  · simp [hk]
  · simp [hk, Vector.getElem_set_ne _ _ (Ne.symm hk)]

/-- The newest entry after a push is what was pushed. -/
theorem State.top_push (s : State) (a : Word) (h : s.sp.val < 16) (h' : 0 < (s.push a h).sp.val) :
    (s.push a h).top h' = a := by
  simp [State.top, State.push]

/-- A pop after a push gives back the old stack pointer. -/
theorem State.pop_push_sp (s : State) (a : Word) (h : s.sp.val < 16) : (s.push a h).pop.sp = s.sp := by
  simp

/-! ### Keys -/

/-- A value names a key exactly when it is at most 15, and then the key of that number. -/
theorem keyIndex_eq_some {v : Byte} {k : Fin 16} : keyIndex v = some k ↔ v.toNat = k.val := by
  unfold keyIndex
  split
  · simp [Fin.ext_iff]
  · simp; omega

theorem keyIndex_eq_none {v : Byte} : keyIndex v = none ↔ 15 < v.toNat := by
  unfold keyIndex
  split <;> simp <;> omega

/-- What the key scan over rising codes finds: a key that is down and above which no key of the list is, or what had been
found when no key of the list is down. -/
theorem State.lastKeyDown_spec (s : State) (found : Option (Fin 16)) (ks : List (Fin 16)) (hs : ks.Pairwise (· < ·)) :
    (∃ k ∈ ks, s.lastKeyDown found ks = some k ∧ s.keyDown k = true ∧ ∀ j ∈ ks, k < j → s.keyDown j = false)
    ∨ (s.lastKeyDown found ks = found ∧ ∀ j ∈ ks, s.keyDown j = false) := by
  induction ks generalizing found with
  | nil => exact .inr ⟨rfl, by simp⟩
  | cons k ks ih =>
    have hks := List.pairwise_cons.mp hs
    rcases ih (if s.keyDown k then some k else found) hks.2 with ⟨j, hj, h1, h2, h3⟩ | ⟨h1, h2⟩
    · refine .inl ⟨j, by simp [hj], h1, h2, fun i hi hji => ?_⟩
      rcases List.mem_cons.mp hi with rfl | hi
      · exact absurd (hks.1 j hj) (by omega)
      · exact h3 i hi hji
    · by_cases hk : s.keyDown k = true
      · refine .inl ⟨k, by simp, by rw [State.lastKeyDown, h1, if_pos hk], hk, fun i hi hki => ?_⟩
        rcases List.mem_cons.mp hi with rfl | hi
        · exact absurd hki (lt_irrefl _)
        · exact h2 i hi
      · refine .inr ⟨by rw [State.lastKeyDown, h1, if_neg hk], fun i hi => ?_⟩
        rcases List.mem_cons.mp hi with rfl | hi
        · simpa using hk
        · exact h2 i hi

theorem allRegs_rising : allRegs.Pairwise (· < ·) := by decide

theorem mem_allRegs (k : Reg) : k ∈ allRegs := by revert k; decide

/-! ### Fetch -/

/-- A fetch within memory gives the big-endian word at pc (R90). -/
theorem State.fetchWord_eq_some {s : State} (h : s.pc.toNat ≤ 4094) :
    s.fetchWord = some (wordOfBytes (s.readByte s.pc.toNat) (s.readByte (s.pc.toNat + 1))) := by
  rw [State.fetchWord, if_pos (by rw [inRange_iff]; omega)]
  rfl

theorem State.fetchWord_eq_none {s : State} (h : 4094 < s.pc.toNat) : s.fetchWord = none := by
  rw [State.fetchWord, if_neg (by rw [inRange_iff]; omega)]

/-- Decoding two bytes is decoding their word (R66). -/
theorem decode_pair_ok {hi lo : Byte} {i : Instr} :
    decode [hi, lo] = .ok (i, []) ↔ decodeWord (wordOfBytes hi lo) = .ok i := by
  rcases h : decodeWord (wordOfBytes hi lo) with e | j <;> simp [decode, h]

/-- The word of two bytes is the high byte times 256 plus the low byte (R66). -/
theorem wordOfBytes_toNat (hi lo : Byte) : (wordOfBytes hi lo).toNat = hi.toNat * 256 + lo.toNat := by
  unfold wordOfBytes
  rw [BitVec.toNat_append, ← Nat.shiftLeft_add_eq_or_of_lt lo.isLt, Nat.shiftLeft_eq]

/-! ### What an operation reads: equal inputs, equal results -/

/-- The rows of a sprite depend on memory and the font alone. -/
theorem State.spriteRows_congr {s t : State} (hm : s.mem = t.mem) (hp : s.params = t.params) (a n : Nat) :
    s.spriteRows a n = t.spriteRows a n := by
  induction n generalizing a with
  | zero => rfl
  | succ n ih => simp only [State.spriteRows, State.readByte, hm, hp, ih]

/-- The memory after a write depends on the memory before it and the font alone. -/
theorem State.writeBytes_mem_congr {s t : State} (hm : s.mem = t.mem) (hp : s.params = t.params) (a : Nat) (vs : List Byte) :
    (s.writeBytes a vs).mem = (t.writeBytes a vs).mem := by
  induction vs generalizing s t a with
  | nil => exact hm
  | cons v vs ih => exact ih (s := s.writeByte a v) (t := t.writeByte a v) (by simp [State.writeByte, hm, hp]) hp (a + 1)

/-- The registers after a block load depend on the registers before it, memory and the font alone. -/
theorem State.loadRegs_V_congr {s t : State} (hV : s.V = t.V) (hm : s.mem = t.mem) (hp : s.params = t.params) (a : Nat)
    (ks : List Reg) : (s.loadRegs a ks).V = (t.loadRegs a ks).V := by
  induction ks generalizing s t with
  | nil => exact hV
  | cons k ks ih =>
    exact ih (s := s.setV k (s.readByte (a + k.val))) (t := t.setV k (t.readByte (a + k.val)))
      (by simp [State.setV, State.readByte, hV, hm, hp]) hm hp

/-- The key scan depends on the key flags alone. -/
theorem State.lastKeyDown_congr {s t : State} (h : s.KEY = t.KEY) (found : Option (Fin 16)) (ks : List (Fin 16)) :
    s.lastKeyDown found ks = t.lastKeyDown found ks := by
  induction ks generalizing found with
  | nil => rfl
  | cons k ks ih =>
    simp only [State.lastKeyDown, State.keyDown, h]
    exact ih _

/-! ### Reset -/

/-- Everything but the parameters, the count of draws and the waiting commands is as after reset (R230). -/
theorem State.toReset_eq (s : State) :
    s.toReset = { State.reset with params := s.params, draws := s.draws, commands := s.commands } := rfl

/-- After reset a byte reads as the font or as zero (R42). -/
theorem State.readByte_toReset (s : State) (a : Nat) : s.toReset.readByte a = resetByte s.params a := rfl

theorem State.readByte_reset (a : Nat) : State.reset.readByte a = resetByte defaultParams a := rfl

end Sys2Proof.Machine
end

