-- ==== Sys2Proof/Laws/Commands.lean ====
section
/-! SUPPORT. Sys2Proof/Laws/Commands.lean: what each command of the host does, and how a step splits into its commands. -/

namespace Sys2Proof.Machine

/-! ### `TICK`, `KEYS`, `RESET`, `LOAD` -/

/-- `TICK` writes `DT` alone, one less or 0 (R204). -/
theorem cmdTick_eq (s : State) : cmdTick s = s.setDT (cmdTick s).DT ∧ (cmdTick s).DT.toNat = s.DT.toNat - 1 := by
  unfold cmdTick
  split
  · refine ⟨rfl, ?_⟩
    have := s.DT.isLt
    rw [State.setDT_DT, BitVec.toNat_sub, show (1 : Byte).toNat = 1 from rfl]
    omega
  · exact ⟨rfl, by omega⟩

/-- What memory reads as after a copied ROM (R231). -/
theorem State.readByte_copyRom (s : State) (rom : List Byte) (a : Nat) :
    (s.copyRom rom).readByte a
      = if 0x200 ≤ a ∧ a < 0x200 + rom.length ∧ a ≤ 4095 then rom.getD (a - 0x200) 0 else s.readByte a :=
  State.readByte_writeBytes s progBase rom a

/-- Copying a ROM writes memory and the load status alone. -/
theorem State.copyRom_eq (s : State) (rom : List Byte) :
    s.copyRom rom = { s with mem := (s.copyRom rom).mem, loadStatus := some .ok } := by
  rw [State.copyRom, State.writeBytes_eq]
  rfl

/-- `LOAD` writes, beyond the reset, memory and the load status alone (R231, R232). -/
theorem cmdLoad_eq (rom : List Byte) (s : State) :
    cmdLoad rom s = { s.toReset with mem := (cmdLoad rom s).mem, loadStatus := (cmdLoad rom s).loadStatus } := by
  unfold cmdLoad
  split
  · rfl
  · rw [State.copyRom_eq]

theorem romMaxBytes_le (r : RomMax) : romMaxBytes r ≤ 3584 := by cases r <;> decide

/-- A byte of the font region after reset (R42). -/
theorem resetByte_font (p : Params) (k : Fin 80) : resetByte p k.val = p.font[k] := by simp [resetByte]

/-- A byte outside the font region after reset (R42). -/
theorem resetByte_zero (p : Params) {a : Nat} (h : 80 ≤ a) : resetByte p a = 0 := dif_neg (by omega)

/-! ### The step -/

/-- A step is an `EXEC`, with no command waiting or with the waiting one taken off, or one of the other four commands. -/
theorem step_cases {s t : State} (h : step s = .next t) :
    (s.commands = [] ∧ execCommand s = .next t)
    ∨ (∃ rest, s.commands = .exec :: rest ∧ execCommand (s.setCommands rest) = .next t)
    ∨ (∃ rest, s.commands = .tick :: rest ∧ t = cmdTick (s.setCommands rest))
    ∨ (∃ k rest, s.commands = .keys k :: rest ∧ t = (s.setCommands rest).setKEY k)
    ∨ (∃ rest, s.commands = .reset :: rest ∧ t = (s.setCommands rest).toReset)
    ∨ (∃ rom rest, s.commands = .load rom :: rest ∧ t = cmdLoad rom (s.setCommands rest)) := by
  unfold step at h
  split at h
  · exact .inl ⟨‹_›, h⟩
  · rename_i c rest hc
    cases c with
    | exec => exact .inr (.inl ⟨rest, hc, h⟩)
    | tick => exact .inr (.inr (.inl ⟨rest, hc, (Host.Outcome.next.inj h).symm⟩))
    | keys k => exact .inr (.inr (.inr (.inl ⟨k, rest, hc, (Host.Outcome.next.inj h).symm⟩)))
    | reset => exact .inr (.inr (.inr (.inr (.inl ⟨rest, hc, (Host.Outcome.next.inj h).symm⟩))))
    | load rom => exact .inr (.inr (.inr (.inr (.inr ⟨rom, rest, hc, (Host.Outcome.next.inj h).symm⟩))))

/-- An `EXEC` is inert, faults at the fetch, runs the instruction it decodes, or meets an `UNIMPL` word. -/
theorem execCommand_cases {s t : State} (h : execCommand s = .next t) :
    (s.fault ≠ .none ∧ t = s)
    ∨ (s.fault = .none ∧ 4094 < s.pc.toNat ∧ t = s.raiseFetch)
    ∨ (s.fault = .none ∧ s.pc.toNat ≤ 4094
        ∧ ∃ i, decodeWord (wordOfBytes (s.readByte s.pc.toNat) (s.readByte (s.pc.toNat + 1))) = .ok i ∧ exec i s = .next t)
    ∨ (s.fault = .none ∧ s.pc.toNat ≤ 4094
        ∧ (∃ e, decodeWord (wordOfBytes (s.readByte s.pc.toNat) (s.readByte (s.pc.toNat + 1))) = .error e)
        ∧ t = (s.emitUnimplemented (wordOfBytes (s.readByte s.pc.toNat) (s.readByte (s.pc.toNat + 1)))).advance) := by
  unfold execCommand at h
  split at h
  · rename_i hf
    by_cases hp : s.pc.toNat ≤ 4094
    · rw [State.fetchWord_eq_some hp] at h
      simp only at h
      split at h
      · exact .inr (.inr (.inl ⟨hf, hp, _, ‹_›, h⟩))
      · exact .inr (.inr (.inr ⟨hf, hp, ⟨_, ‹_›⟩, (Host.Outcome.next.inj h).symm⟩))
    · rw [State.fetchWord_eq_none (by omega)] at h
      exact .inr (.inl ⟨hf, by omega, (Host.Outcome.next.inj h).symm⟩)
  · exact .inl ⟨‹_›, (Host.Outcome.next.inj h).symm⟩

/-- With the latch clear and an instruction at pc, an `EXEC` is that instruction. -/
theorem execCommand_ok {s : State} {i : Instr} (hf : s.fault = .none) (hp : s.pc.toNat ≤ 4094)
    (hd : decodeWord (wordOfBytes (s.readByte s.pc.toNat) (s.readByte (s.pc.toNat + 1))) = .ok i) :
    execCommand s = exec i s := by
  simp only [execCommand, hf, if_true, State.fetchWord_eq_some hp, hd]

end Sys2Proof.Machine
end

