-- ==== Sys2Proof/Laws/Display.lean ====
section
/-! SUPPORT. Sys2Proof/Laws/Display.lean: what drawing does to each pixel and to the collision, said once per level: one
bit, one row, the whole sprite (R121). -/

namespace Sys2Proof.Machine

theorem fbGet_fbFlip (fb : Vector (Vector Bool 64) 32) (r q : Fin 32) (c d : Fin 64) :
    fbGet (fbFlip fb r c) q d = (fbGet fb q d ^^ decide (q = r ∧ d = c)) := by
  unfold fbGet fbFlip
  by_cases hr : q = r
  · subst hr
    by_cases hc : d = c
    · subst hc; simp
    · have : c.val ≠ d.val := fun e => hc (Fin.ext e.symm)
      simp [hc, Vector.getElem_set_ne _ _ this]
  · have : r.val ≠ q.val := fun e => hr (Fin.ext e.symm)
    simp [hr, Vector.getElem_set_ne _ _ this]

theorem fbGet_fbBlank (r : Fin 32) (c : Fin 64) : fbGet fbBlank r c = false := by
  simp [fbGet, fbBlank]

/-- Two framebuffers with the same pixels are the same. -/
theorem fb_ext {f g : Vector (Vector Bool 64) 32} (h : ∀ r c, fbGet f r c = fbGet g r c) : f = g := by
  apply Vector.ext
  intro i hi
  apply Vector.ext
  intro j hj
  exact h ⟨i, hi⟩ ⟨j, hj⟩

/-! ### One bit -/

theorem drawBit_pixel (c : Canvas) (bit : Bool) (r q : Fin 32) (k d : Fin 64) :
    fbGet (drawBit c bit r k).fb q d = (fbGet c.fb q d ^^ (bit && decide (q = r ∧ d = k))) := by
  cases bit <;> simp [drawBit, fbGet_fbFlip]

theorem drawBit_hit (c : Canvas) (bit : Bool) (r : Fin 32) (k : Fin 64) :
    (drawBit c bit r k).hit = (c.hit || (bit && fbGet c.fb r k)) := by
  cases bit <;> simp [drawBit]

/-! ### One row -/

/-- Distinct columns of one sprite row have distinct targets. -/
theorem targetCol_injective {x : Byte} {i j : Nat} (hi : i < 64) (hj : j < 64) (h : targetCol x i = targetCol x j) : i = j := by
  have := congrArg Fin.val h
  simp only [targetCol] at this
  omega

theorem targetRow_injective {y : Byte} {i j : Nat} (hi : i < 32) (hj : j < 32) (h : targetRow y i = targetRow y j) : i = j := by
  have := congrArg Fin.val h
  simp only [targetRow] at this
  omega

/-- Drawing the columns of a list without repeats: each set bit toggles its own target. -/
theorem drawCols_pixel (b : Byte) (r : Fin 32) (x : Byte) (cols : List Nat) (hb : ∀ j ∈ cols, j < 64) (hn : cols.Nodup)
    (c : Canvas) (q : Fin 32) (d : Fin 64) :
    fbGet (cols.foldl (fun c col => drawBit c (b.getLsbD (7 - col)) r (targetCol x col)) c).fb q d
      = (fbGet c.fb q d ^^ (decide (q = r) && cols.any fun j => b.getLsbD (7 - j) && decide (d = targetCol x j))) := by
  induction cols generalizing c with
  | nil => simp
  | cons j cols ih =>
    have hn' := List.nodup_cons.mp hn
    rw [List.foldl_cons, ih (fun i hi => hb i (by simp [hi])) hn'.2, drawBit_pixel, List.any_cons]
    by_cases hq : q = r
    · by_cases hd : d = targetCol x j
      · have hnone : (cols.any fun i => b.getLsbD (7 - i) && decide (d = targetCol x i)) = false := by
          rw [List.any_eq_false]
          intro i hi
          have : d ≠ targetCol x i := by
            rw [hd]
            intro e
            exact hn'.1 (targetCol_injective (hb j (by simp)) (hb i (by simp [hi])) e ▸ hi)
          simp [this]
        rw [hnone]; simp [hq, hd]
      · simp [hq, hd]
    · simp [hq]

/-- Drawing the columns of a list without repeats collides when a set bit's target was set before. -/
theorem drawCols_hit (b : Byte) (r : Fin 32) (x : Byte) (cols : List Nat) (hb : ∀ j ∈ cols, j < 64) (hn : cols.Nodup)
    (c : Canvas) :
    (cols.foldl (fun c col => drawBit c (b.getLsbD (7 - col)) r (targetCol x col)) c).hit
      = (c.hit || cols.any fun j => b.getLsbD (7 - j) && fbGet c.fb r (targetCol x j)) := by
  induction cols generalizing c with
  | nil => simp
  | cons j cols ih =>
    have hn' := List.nodup_cons.mp hn
    rw [List.foldl_cons, ih (fun i hi => hb i (by simp [hi])) hn'.2, drawBit_hit, List.any_cons, Bool.or_assoc]
    congr 2
    rw [Bool.eq_iff_iff, List.any_eq_true, List.any_eq_true]
    refine exists_congr fun i => and_congr_right fun hi => ?_
    rw [drawBit_pixel]
    have : targetCol x i ≠ targetCol x j := fun e =>
      hn'.1 (targetCol_injective (hb j (by simp)) (hb i (by simp [hi])) e.symm ▸ hi)
    simp [this]

/-- One sprite row toggles, in its framebuffer row, the target of each bit that is 1. -/
theorem drawRow_pixel (c : Canvas) (b : Byte) (r : Fin 32) (x : Byte) (q : Fin 32) (d : Fin 64) :
    fbGet (drawRow c b r x).fb q d
      = (fbGet c.fb q d ^^ (decide (q = r) && (List.range 8).any fun j => b.getLsbD (7 - j) && decide (d = targetCol x j))) :=
  drawCols_pixel b r x (List.range 8) (by decide) (by decide) c q d

/-- One sprite row collides when the target of a bit that is 1 was set before. -/
theorem drawRow_hit (c : Canvas) (b : Byte) (r : Fin 32) (x : Byte) :
    (drawRow c b r x).hit = (c.hit || (List.range 8).any fun j => b.getLsbD (7 - j) && fbGet c.fb r (targetCol x j)) :=
  drawCols_hit b r x (List.range 8) (by decide) (by decide) c

/-! ### The whole sprite -/

/-- A framebuffer row that no sprite row lands on is unchanged. -/
theorem drawRows_pixel_other (x y : Byte) (bs : List Byte) (row : Nat) (c : Canvas) (q : Fin 32) (d : Fin 64)
    (h : ∀ j, j < bs.length → targetRow y (row + j) ≠ q) : fbGet (drawRows c x y row bs).fb q d = fbGet c.fb q d := by
  induction bs generalizing c row with
  | nil => rfl
  | cons b bs ih =>
    have h0 : q ≠ targetRow y row := fun e => h 0 (by simp) (by simp [e])
    rw [drawRows, ih (row + 1) (drawRow c b (targetRow y row) x) fun j hj => by
      have := h (j + 1) (by simp only [List.length_cons]; omega)
      rwa [show row + 1 + j = row + (j + 1) by omega], drawRow_pixel]
    simp [h0]

/-- The whole sprite, no taller than the screen: the pixels of sprite row `j`'s framebuffer row toggle where a bit of that
sprite row that is 1 has its target. -/
theorem drawRows_pixel (x y : Byte) (bs : List Byte) (row : Nat) (c : Canvas) (hl : row + bs.length ≤ 32) (j : Nat)
    (hj : j < bs.length) (d : Fin 64) :
    fbGet (drawRows c x y row bs).fb (targetRow y (row + j)) d
      = (fbGet c.fb (targetRow y (row + j)) d
        ^^ (List.range 8).any fun k => (bs.getD j 0).getLsbD (7 - k) && decide (d = targetCol x k)) := by
  induction bs generalizing c row j with
  | nil => simp at hj
  | cons b bs ih =>
    simp only [List.length_cons] at hl hj
    cases j with
    | zero =>
      rw [drawRows, drawRows_pixel_other, drawRow_pixel]
      · simp
      · intro i hi e
        have := targetRow_injective (by omega) (by omega) e
        omega
    | succ j =>
      have hne : targetRow y (row + (j + 1)) ≠ targetRow y row := fun e => by
        have := targetRow_injective (by omega) (by omega) e
        omega
      have := ih (row + 1) (drawRow c b (targetRow y row) x) (by omega) j (by omega)
      rw [show row + 1 + j = row + (j + 1) by omega] at this
      rw [drawRows, this, drawRow_pixel]
      simp [hne]

/-- The whole sprite collides when a bit of a sprite row that is 1 has a target that was set before the draw: no pixel is
hit twice (R121). -/
theorem drawRows_hit (x y : Byte) (bs : List Byte) (row : Nat) (c : Canvas) (hl : row + bs.length ≤ 32) :
    (drawRows c x y row bs).hit = true ↔ c.hit = true ∨ ∃ j < bs.length, ∃ k < 8,
      (bs.getD j 0).getLsbD (7 - k) = true ∧ fbGet c.fb (targetRow y (row + j)) (targetCol x k) = true := by
  induction bs generalizing c row with
  | nil => simp [drawRows]
  | cons b bs ih =>
    simp only [List.length_cons] at hl
    rw [drawRows, ih (row + 1) _ (by omega), drawRow_hit]
    have hsame : ∀ j, j < bs.length → ∀ k, fbGet (drawRow c b (targetRow y row) x).fb (targetRow y (row + 1 + j)) (targetCol x k)
        = fbGet c.fb (targetRow y (row + 1 + j)) (targetCol x k) := by
      intro j hj k
      have hne : targetRow y (row + 1 + j) ≠ targetRow y row := fun e => by
        have := targetRow_injective (by omega) (by omega) e
        omega
      rw [drawRow_pixel]; simp [hne]
    constructor
    · rintro (h | ⟨j, hj, k, hk, h1, h2⟩)
      · rw [Bool.or_eq_true, List.any_eq_true] at h
        rcases h with h | ⟨k, hk, h⟩
        · exact .inl h
        · rw [Bool.and_eq_true] at h
          exact .inr ⟨0, by simp, k, by simpa using hk, by simpa using h.1, by simpa using h.2⟩
      · rw [hsame j hj] at h2
        exact .inr ⟨j + 1, by simp only [List.length_cons]; omega, k, hk, by simpa using h1, by
          rwa [show row + (j + 1) = row + 1 + j by omega]⟩
    · rintro (h | ⟨j, hj, k, hk, h1, h2⟩)
      · exact .inl (by simp [h])
      · cases j with
        | zero =>
          refine .inl ?_
          rw [Bool.or_eq_true, List.any_eq_true]
          exact .inr ⟨k, by simpa using hk, by simpa using ⟨h1, h2⟩⟩
        | succ j =>
          simp only [List.length_cons] at hj
          refine .inr ⟨j, by omega, k, hk, by simpa using h1, ?_⟩
          rw [hsame j (by omega)]
          rwa [show row + 1 + j = row + (j + 1) by omega]

/-! ### The sprite's rows -/

theorem State.spriteRows_length (s : State) (a n : Nat) : (s.spriteRows a n).length = n := by
  induction n generalizing a with
  | zero => rfl
  | succ n ih => simp [State.spriteRows, ih]

/-- Sprite row `j` is the byte `j` places after the address (R121). -/
theorem State.spriteRows_getD (s : State) (a n j : Nat) (h : j < n) : (s.spriteRows a n).getD j 0 = s.readByte (a + j) := by
  induction n generalizing a j with
  | zero => omega
  | succ n ih =>
    cases j with
    | zero => rfl
    | succ j =>
      have := ih (a + 1) j (by omega)
      rw [show a + 1 + j = a + (j + 1) by omega] at this
      simpa [State.spriteRows] using this

end Sys2Proof.Machine
end

