-- ==== Sys2Proof/Laws/Encoding.lean ====
section
/-! SUPPORT. Sys2Proof/Laws/Encoding.lean: the opcode map is well formed (R96), and its size. -/

namespace Sys2Proof

/-- Every row of the opcode map is well formed and no two overlap (R96). -/
theorem opcodeTable_wellFormed : tableWellFormed opcodeTable = true := by decide

theorem opcodeTable_length : opcodeTable.length = 34 := by decide

end Sys2Proof
end

