-- ==== Sys2Proof/Laws/PerInstr.lean ====
section
/-! SUPPORT. Sys2Proof/Laws/PerInstr.lean: the family EncodingRow: each instruction's word selects the instruction's own row
of the opcode map, and that row is in the map (R93, R96). One lemma per constructor. -/

namespace Sys2Proof.Laws.EncodingRow

/-- The instruction's row is a row of R96, and the instruction's word selects it. -/
def Statement (i : Instr) : Prop := i.row ∈ opcodeTable ∧ i.row.selects (encode i) = true

/-- A mask of the family nibble keeps the family of a word and clears the rest. -/
theorem and_familyMask (f : BitVec 4) (r : BitVec 12) : (f ++ r : Word) &&& 0xF000 = f ++ 0#12 := by
  apply BitVec.eq_of_getLsbD_eq
  intro k hk
  simp only [BitVec.getLsbD_and, BitVec.getLsbD_append]
  interval_cases k <;> simp

theorem and_familyMask_xnn (f x : BitVec 4) (nn : BitVec 8) : (f ++ x ++ nn : Word) &&& 0xF000 = f ++ 0#12 := by
  apply BitVec.eq_of_getLsbD_eq
  intro k hk
  simp only [BitVec.getLsbD_and, BitVec.getLsbD_append]
  interval_cases k <;> simp

theorem and_familyMask_xyn (f x y n : BitVec 4) : (f ++ x ++ y ++ n : Word) &&& 0xF000 = f ++ 0#12 := by
  apply BitVec.eq_of_getLsbD_eq
  intro k hk
  simp only [BitVec.getLsbD_and, BitVec.getLsbD_append]
  interval_cases k <;> simp

theorem cls : Statement (.cls) :=
  ⟨List.mem_of_getElem? (i := 0) rfl, by decide⟩

theorem ret : Statement (.ret) :=
  ⟨List.mem_of_getElem? (i := 1) rfl, by decide⟩

theorem jp (nnn : Addr) : Statement (.jp nnn) :=
  ⟨List.mem_of_getElem? (i := 2) rfl, beq_iff_eq.mpr (and_familyMask 0x1 nnn)⟩

theorem call (nnn : Addr) : Statement (.call nnn) :=
  ⟨List.mem_of_getElem? (i := 3) rfl, beq_iff_eq.mpr (and_familyMask 0x2 nnn)⟩

theorem seImm (x : Reg) (nn : Byte) : Statement (.seImm x nn) :=
  ⟨List.mem_of_getElem? (i := 4) rfl, beq_iff_eq.mpr (and_familyMask_xnn 0x3 (nibble x) nn)⟩

theorem sneImm (x : Reg) (nn : Byte) : Statement (.sneImm x nn) :=
  ⟨List.mem_of_getElem? (i := 5) rfl, beq_iff_eq.mpr (and_familyMask_xnn 0x4 (nibble x) nn)⟩

theorem seReg (x y : Reg) : Statement (.seReg x y) :=
  ⟨List.mem_of_getElem? (i := 6) rfl, by revert x y; decide⟩

theorem ldImm (x : Reg) (nn : Byte) : Statement (.ldImm x nn) :=
  ⟨List.mem_of_getElem? (i := 7) rfl, beq_iff_eq.mpr (and_familyMask_xnn 0x6 (nibble x) nn)⟩

theorem addImm (x : Reg) (nn : Byte) : Statement (.addImm x nn) :=
  ⟨List.mem_of_getElem? (i := 8) rfl, beq_iff_eq.mpr (and_familyMask_xnn 0x7 (nibble x) nn)⟩

theorem ldReg (x y : Reg) : Statement (.ldReg x y) :=
  ⟨List.mem_of_getElem? (i := 9) rfl, by revert x y; decide⟩

theorem orReg (x y : Reg) : Statement (.orReg x y) :=
  ⟨List.mem_of_getElem? (i := 10) rfl, by revert x y; decide⟩

theorem andReg (x y : Reg) : Statement (.andReg x y) :=
  ⟨List.mem_of_getElem? (i := 11) rfl, by revert x y; decide⟩

theorem xorReg (x y : Reg) : Statement (.xorReg x y) :=
  ⟨List.mem_of_getElem? (i := 12) rfl, by revert x y; decide⟩

theorem addReg (x y : Reg) : Statement (.addReg x y) :=
  ⟨List.mem_of_getElem? (i := 13) rfl, by revert x y; decide⟩

theorem subReg (x y : Reg) : Statement (.subReg x y) :=
  ⟨List.mem_of_getElem? (i := 14) rfl, by revert x y; decide⟩

theorem shr (x y : Reg) : Statement (.shr x y) :=
  ⟨List.mem_of_getElem? (i := 15) rfl, by revert x y; decide⟩

theorem subn (x y : Reg) : Statement (.subn x y) :=
  ⟨List.mem_of_getElem? (i := 16) rfl, by revert x y; decide⟩

theorem shl (x y : Reg) : Statement (.shl x y) :=
  ⟨List.mem_of_getElem? (i := 17) rfl, by revert x y; decide⟩

theorem sneReg (x y : Reg) : Statement (.sneReg x y) :=
  ⟨List.mem_of_getElem? (i := 18) rfl, by revert x y; decide⟩

theorem ldI (nnn : Addr) : Statement (.ldI nnn) :=
  ⟨List.mem_of_getElem? (i := 19) rfl, beq_iff_eq.mpr (and_familyMask 0xA nnn)⟩

theorem jpV0 (nnn : Addr) : Statement (.jpV0 nnn) :=
  ⟨List.mem_of_getElem? (i := 20) rfl, beq_iff_eq.mpr (and_familyMask 0xB nnn)⟩

theorem rnd (x : Reg) (nn : Byte) : Statement (.rnd x nn) :=
  ⟨List.mem_of_getElem? (i := 21) rfl, beq_iff_eq.mpr (and_familyMask_xnn 0xC (nibble x) nn)⟩

theorem drw (x y : Reg) (n : Fin 16) : Statement (.drw x y n) :=
  ⟨List.mem_of_getElem? (i := 22) rfl, beq_iff_eq.mpr (and_familyMask_xyn 0xD (nibble x) (nibble y) (nibble n))⟩

theorem skp (x : Reg) : Statement (.skp x) :=
  ⟨List.mem_of_getElem? (i := 23) rfl, by revert x; decide⟩

theorem sknp (x : Reg) : Statement (.sknp x) :=
  ⟨List.mem_of_getElem? (i := 24) rfl, by revert x; decide⟩

theorem ldVxDT (x : Reg) : Statement (.ldVxDT x) :=
  ⟨List.mem_of_getElem? (i := 25) rfl, by revert x; decide⟩

theorem ldVxK (x : Reg) : Statement (.ldVxK x) :=
  ⟨List.mem_of_getElem? (i := 26) rfl, by revert x; decide⟩

theorem ldDTVx (x : Reg) : Statement (.ldDTVx x) :=
  ⟨List.mem_of_getElem? (i := 27) rfl, by revert x; decide⟩

theorem ldSTVx (x : Reg) : Statement (.ldSTVx x) :=
  ⟨List.mem_of_getElem? (i := 28) rfl, by revert x; decide⟩

theorem addI (x : Reg) : Statement (.addI x) :=
  ⟨List.mem_of_getElem? (i := 29) rfl, by revert x; decide⟩

theorem ldF (x : Reg) : Statement (.ldF x) :=
  ⟨List.mem_of_getElem? (i := 30) rfl, by revert x; decide⟩

theorem ldB (x : Reg) : Statement (.ldB x) :=
  ⟨List.mem_of_getElem? (i := 31) rfl, by revert x; decide⟩

theorem store (x : Reg) : Statement (.store x) :=
  ⟨List.mem_of_getElem? (i := 32) rfl, by revert x; decide⟩

theorem load (x : Reg) : Statement (.load x) :=
  ⟨List.mem_of_getElem? (i := 33) rfl, by revert x; decide⟩

end Sys2Proof.Laws.EncodingRow
end

