-- ==== Sys2Proof/Tests/Slice0.lean ====
section
/-! SUPPORT. Sys2Proof/Tests/Slice0.lean: single steps on small states. The expected results are the vectors of
spec/95_test_vectors.md, whose names stand beside each test; the decoded words are written out from R93 and R96. -/

namespace Sys2Proof.Machine.Tests

/-! ### The opcode map's checks refuse an ill-formed row and an overlapping table -/

theorem test_row_outside_mask_refused : Row.wellFormed ⟨"5xy0", 0x5001, 0xF00E⟩ = false := by decide
theorem test_row_without_family_refused : Row.wellFormed ⟨"5xy0", 0x5000, 0x700F⟩ = false := by decide
theorem test_overlapping_rows_refused :
    tableWellFormed [⟨"8xy4", 0x8004, 0xF00F⟩, ⟨"8xyN", 0x8000, 0xF000⟩] = false := by decide

/-! ### Decoding, one word per constructor (R93, R96), and words that are none (V-U2 to V-U7) -/

theorem test_decode_cls : decodeWord 0x00E0 = .ok (.cls) := rfl
theorem test_decode_ret : decodeWord 0x00EE = .ok (.ret) := rfl
theorem test_decode_jp : decodeWord 0x1ABC = .ok (.jp 0xABC) := rfl
theorem test_decode_call : decodeWord 0x2300 = .ok (.call 0x300) := rfl
theorem test_decode_seImm : decodeWord 0x332A = .ok (.seImm 3 0x2A) := rfl
theorem test_decode_sneImm : decodeWord 0x4300 = .ok (.sneImm 3 0x00) := rfl
theorem test_decode_seReg : decodeWord 0x5120 = .ok (.seReg 1 2) := rfl
theorem test_decode_ldImm : decodeWord 0x6A7F = .ok (.ldImm 0xA 0x7F) := rfl
theorem test_decode_addImm : decodeWord 0x7105 = .ok (.addImm 1 0x05) := rfl
theorem test_decode_ldReg : decodeWord 0x8120 = .ok (.ldReg 1 2) := rfl
theorem test_decode_orReg : decodeWord 0x8121 = .ok (.orReg 1 2) := rfl
theorem test_decode_andReg : decodeWord 0x8122 = .ok (.andReg 1 2) := rfl
theorem test_decode_xorReg : decodeWord 0x8123 = .ok (.xorReg 1 2) := rfl
theorem test_decode_addReg : decodeWord 0x81F4 = .ok (.addReg 1 0xF) := rfl
theorem test_decode_subReg : decodeWord 0x8F15 = .ok (.subReg 0xF 1) := rfl
theorem test_decode_shr : decodeWord 0x8176 = .ok (.shr 1 7) := rfl
theorem test_decode_subn : decodeWord 0x8127 = .ok (.subn 1 2) := rfl
theorem test_decode_shl : decodeWord 0x81AE = .ok (.shl 1 0xA) := rfl
theorem test_decode_sneReg : decodeWord 0x9120 = .ok (.sneReg 1 2) := rfl
theorem test_decode_ldI : decodeWord 0xA2F0 = .ok (.ldI 0x2F0) := rfl
theorem test_decode_jpV0 : decodeWord 0xB234 = .ok (.jpV0 0x234) := rfl
theorem test_decode_rnd : decodeWord 0xC30F = .ok (.rnd 3 0x0F) := rfl
theorem test_decode_drw : decodeWord 0xD12F = .ok (.drw 1 2 0xF) := rfl
theorem test_decode_skp : decodeWord 0xE49E = .ok (.skp 4) := rfl
theorem test_decode_sknp : decodeWord 0xE4A1 = .ok (.sknp 4) := rfl
theorem test_decode_ldVxDT : decodeWord 0xF507 = .ok (.ldVxDT 5) := rfl
theorem test_decode_ldVxK : decodeWord 0xF60A = .ok (.ldVxK 6) := rfl
theorem test_decode_ldDTVx : decodeWord 0xF515 = .ok (.ldDTVx 5) := rfl
theorem test_decode_ldSTVx : decodeWord 0xF318 = .ok (.ldSTVx 3) := rfl
theorem test_decode_addI : decodeWord 0xF21E = .ok (.addI 2) := rfl
theorem test_decode_ldF : decodeWord 0xF329 = .ok (.ldF 3) := rfl
theorem test_decode_ldB : decodeWord 0xF433 = .ok (.ldB 4) := rfl
theorem test_decode_store : decodeWord 0xF255 = .ok (.store 2) := rfl
theorem test_decode_load : decodeWord 0xF265 = .ok (.load 2) := rfl
theorem test_encode_addReg : encode (.addReg 1 0xF) = 0x81F4 := by decide
theorem test_encode_drw : encode (.drw 1 2 0xF) = 0xD12F := by decide
theorem test_decode_00E1 : decodeWord 0x00E1 = .error (.unimplemented 0x00E1) := rfl
theorem test_decode_5121 : decodeWord 0x5121 = .error (.unimplemented 0x5121) := rfl
theorem test_decode_8128 : decodeWord 0x8128 = .error (.unimplemented 0x8128) := rfl
theorem test_decode_E09F : decodeWord 0xE09F = .error (.unimplemented 0xE09F) := rfl
theorem test_decode_F075 : decodeWord 0xF075 = .error (.unimplemented 0xF075) := rfl
theorem test_decodeTableWord : decodeTableWord 16 0xD12F = some (.drw 1 2 0xF) := rfl

/-! ### One step -/

/-- The state after a step; none when the model stops. -/
def nextState : Result → Option State
  | .next t => some t
  | _ => none

/-- The state after one step that fetches the given word at pc. -/
def after (s : State) (op : Nat) : State := (nextState (step (s.withFetchWord 16 op))).getD State.reset

/-- The state after one command of the host. -/
def afterCmd (s : State) (c : Command) : State := (nextState (step { s with commands := [c] })).getD State.reset

/-- The reset state with registers set. -/
def withV (l : List (Reg × Byte)) : State := l.foldl (fun s p => s.setV p.1 p.2) State.reset

/-- The state with bytes in memory. -/
def withMem (s : State) (a : Nat) (vs : List Byte) : State := s.writeBytes a vs

/-- The pixels of a list are lit. -/
def lit (s : State) (l : List (Fin 32 × Fin 64)) : Bool := l.all fun p => s.pixel p.1 p.2

/-- How many pixels of a row are lit. -/
def litInRow (s : State) (r : Fin 32) : Nat := s.FB[r].toList.countP id

/-- V-D0 -/
theorem test_cls :
    let t := after ({ State.reset with FB := fbFlip (fbFlip fbBlank 3 7) 31 63 }.setV VF 5) 0x00E0
    t.FB = fbBlank ∧ t.getV VF = 5 ∧ t.pc = 0x202 := by decide

/-- V-D2 -/
theorem test_drw_wraps :
    let t := after (withMem ((withV [(1, 60), (2, 30)]).setI 0x300) 0x300 [0x81, 0x42, 0x24, 0x18]) 0xD124
    lit t [(30, 60), (30, 3), (31, 61), (31, 2), (0, 62), (0, 1), (1, 63), (1, 0)] = true ∧ litInRow t 0 = 2 ∧ litInRow t 30 = 2 ∧ t.getV VF = 0 ∧ t.pc = 0x202 := by decide

/-- V-D8 -/
theorem test_drw_collides_yF :
    let t := after (withMem (({ withV [(0, 2), (VF, 3)] with FB := fbFlip fbBlank 3 2 }).setI 0x300) 0x300 [0x80]) 0xD0F1
    t.pixel 3 2 = false ∧ litInRow t 3 = 0 ∧ t.getV VF = 1 := by decide

/-- V-D12 -/
theorem test_drw_out_of_range :
    let t := after ((withV [(VF, 9)]).setI 0xFF2) 0xD12F
    t.fault = .memoryOutOfRange ∧ t.faultInfo = some ⟨0x200, some 0xD12F, .access 0xFF2 15⟩ ∧ t.getV VF = 9 ∧ t.pc = 0x200 ∧ litInRow t 0 = 0 := by decide

/-- V-C8 -/
theorem test_ret :
    let t := after { State.reset with pc := 0x300, sp := 1, stack := State.reset.stack.set 0 0x200 } 0x00EE
    t.sp = 0 ∧ t.pc = 0x202 ∧ t.stack[0] = 0x200 := by decide

/-- V-C9 -/
theorem test_ret_underflow :
    let t := after { State.reset with pc := 0x300, stack := State.reset.stack.set 0 0x222 } 0x00EE
    t.fault = .stackUnderflow ∧ t.faultInfo = some ⟨0x300, some 0x00EE, .nothing⟩ ∧ t.sp = 0 ∧ t.pc = 0x300 := by decide

/-- V-C1 -/
theorem test_jp :
    let t := after State.reset 0x1ABC
    t.pc = 0xABC := by decide

/-- V-C3 -/
theorem test_jp_odd :
    let t := after State.reset 0x1201
    t.pc = 0x201 := by decide

/-- V-C6 -/
theorem test_call_sixteenth :
    let t := after { State.reset with pc := 0x456, sp := 15 } 0x2300
    t.stack[15] = 0x456 ∧ t.sp = 16 ∧ t.pc = 0x300 ∧ t.fault = .none := by decide

/-- V-C7 -/
theorem test_call_overflow :
    let t := after { State.reset with sp := 16 } 0x2300
    t.fault = .stackOverflow ∧ t.faultInfo = some ⟨0x200, some 0x2300, .nothing⟩ ∧ t.sp = 16 ∧ t.stack[15] = 0 ∧ t.pc = 0x200 := by decide

/-- V-C13 -/
theorem test_jpV0_no_wrap :
    let t := after (withV [(0, 0xFF)]) 0xBFFF
    t.pc = 0x10FE := by decide

/-- V-C12 -/
theorem test_jpV0_uses_V0 :
    let t := after (withV [(2, 0x77)]) 0xB234
    t.pc = 0x234 := by decide

/-- V-S1 -/
theorem test_seImm_skips :
    let t := after (withV [(3, 0x2A)]) 0x332A
    t.pc = 0x204 := by decide

/-- V-S2 -/
theorem test_seImm_goes_on :
    let t := after (withV [(3, 0x2A)]) 0x332B
    t.pc = 0x202 := by decide

/-- V-S3 -/
theorem test_sneImm_goes_on :
    let t := after (withV [(3, 0x2A)]) 0x432A
    t.pc = 0x202 := by decide

/-- V-S4 -/
theorem test_sneImm_skips :
    let t := after (withV [(3, 0x2A)]) 0x4300
    t.pc = 0x204 := by decide

/-- V-S5 -/
theorem test_seReg_skips :
    let t := after (withV [(1, 7), (2, 7)]) 0x5120
    t.pc = 0x204 := by decide

/-- V-S6 -/
theorem test_seReg_goes_on :
    let t := after (withV [(1, 7), (2, 8)]) 0x5120
    t.pc = 0x202 := by decide

/-- V-S8 -/
theorem test_sneReg_skips :
    let t := after (withV [(1, 7), (2, 8)]) 0x9120
    t.pc = 0x204 := by decide

/-- V-S10 -/
theorem test_sneReg_goes_on :
    let t := after (withV [(1, 9)]) 0x9110
    t.pc = 0x202 := by decide

/-- V-S11 -/
theorem test_skp :
    let t := after { withV [(4, 0xA)] with KEY := 0x0400 } 0xE49E
    t.pc = 0x204 := by decide

/-- V-S17 -/
theorem test_skp_not_masked :
    let t := after { withV [(4, 0x10)] with KEY := 1 } 0xE49E
    t.fault = .keyIndexOutOfRange ∧ t.faultInfo = some ⟨0x200, some 0xE49E, .key 0x10⟩ ∧ t.pc = 0x200 := by decide

/-- V-S13 -/
theorem test_sknp :
    let t := after { withV [(4, 0xA)] with KEY := 0x0400 } 0xE4A1
    t.pc = 0x202 := by decide

/-- V-S18 -/
theorem test_sknp_fault :
    let t := after { withV [(4, 0xFF)] with KEY := 0x8000 } 0xE4A1
    t.fault = .keyIndexOutOfRange ∧ t.pc = 0x200 := by decide

/-- V-A1 -/
theorem test_ldImm :
    let t := after (withV []) 0x6A7F
    t.getV 0xA = 0x7F ∧ t.pc = 0x202 := by decide

/-- V-A3 -/
theorem test_addImm_no_flag :
    let t := after (withV [(1, 0xFE)]) 0x7105
    t.getV 1 = 3 ∧ t.getV VF = 0 ∧ t.pc = 0x202 := by decide

/-- V-A5 -/
theorem test_addImm_VF :
    let t := after (withV [(VF, 0xFF)]) 0x7F01
    t.getV VF = 0 ∧ t.pc = 0x202 := by decide

/-- V-A6 -/
theorem test_ldReg :
    let t := after (withV [(1, 1), (2, 0x55)]) 0x8120
    t.getV 1 = 0x55 ∧ t.getV 2 = 0x55 ∧ t.pc = 0x202 := by decide

/-- V-A7 -/
theorem test_orReg :
    let t := after (withV [(1, 0xF0), (2, 0x0F), (VF, 7)]) 0x8121
    t.getV 1 = 0xFF ∧ t.getV VF = 7 ∧ t.pc = 0x202 := by decide

/-- V-A8 -/
theorem test_andReg :
    let t := after (withV [(1, 0xF3), (2, 0x3C), (VF, 7)]) 0x8122
    t.getV 1 = 0x30 ∧ t.getV VF = 7 ∧ t.pc = 0x202 := by decide

/-- V-A9 -/
theorem test_xorReg :
    let t := after (withV [(1, 0xFF), (2, 0x0F), (VF, 7)]) 0x8123
    t.getV 1 = 0xF0 ∧ t.getV VF = 7 ∧ t.pc = 0x202 := by decide

/-- V-A13 -/
theorem test_addReg_255_is_no_carry :
    let t := after (withV [(1, 0xFF), (2, 0), (VF, 1)]) 0x8124
    t.getV 1 = 0xFF ∧ t.getV VF = 0 ∧ t.pc = 0x202 := by decide

/-- V-A16 -/
theorem test_addReg_yF :
    let t := after (withV [(1, 0xF0), (VF, 0x20)]) 0x81F4
    t.getV 1 = 0xF1 ∧ t.getV VF = 1 ∧ t.pc = 0x202 := by decide

/-- V-A21 -/
theorem test_subReg_equal :
    let t := after (withV [(1, 5), (2, 5)]) 0x8125
    t.getV 1 = 0 ∧ t.getV VF = 0 ∧ t.pc = 0x202 := by decide

/-- V-A25 -/
theorem test_subReg_xF :
    let t := after (withV [(VF, 9), (1, 3)]) 0x8F15
    t.getV VF = 0xFE ∧ t.getV 1 = 3 ∧ t.pc = 0x202 := by decide

/-- V-A30 -/
theorem test_shr_ignores_y :
    let t := after (withV [(1, 5), (7, 0xFF)]) 0x8176
    t.getV 1 = 2 ∧ t.getV 7 = 0xFF ∧ t.getV VF = 1 ∧ t.pc = 0x202 := by decide

/-- V-A34 -/
theorem test_shr_VF :
    let t := after (withV [(VF, 0xFF)]) 0x8F06
    t.getV VF = 0 ∧ t.pc = 0x202 := by decide

/-- V-A37 -/
theorem test_subn_wraps :
    let t := after (withV [(1, 0x0A), (2, 3)]) 0x8127
    t.getV 1 = 0xF9 ∧ t.getV VF = 0 ∧ t.pc = 0x202 := by decide

/-- V-A42 -/
theorem test_subn_yF :
    let t := after (withV [(1, 0x10), (VF, 5)]) 0x81F7
    t.getV 1 = 0xF0 ∧ t.getV VF = 0 ∧ t.pc = 0x202 := by decide

/-- V-A47 -/
theorem test_shl_ignores_y :
    let t := after (withV [(1, 1), (0xA, 0xFF)]) 0x81AE
    t.getV 1 = 2 ∧ t.getV 0xA = 0xFF ∧ t.getV VF = 0 ∧ t.pc = 0x202 := by decide

/-- V-A48 -/
theorem test_shl_VF :
    let t := after (withV [(VF, 0xFF)]) 0x8F0E
    t.getV VF = 2 ∧ t.pc = 0x202 := by decide

/-- The parameter `VF_ORDER` at its second value. -/
def resultLast (s : State) : State := { s with params := { s.params with vfOrder := .resultLast } }

/-- V-A16, result_last -/
theorem test_addReg_yF_result_last :
    let t := after (resultLast (withV [(1, 0xF0), (VF, 0x20)])) 0x81F4
    t.getV 1 = 0x10 ∧ t.getV VF = 1 := by decide

/-- V-A25, result_last -/
theorem test_subReg_xF_result_last :
    let t := after (resultLast (withV [(VF, 9), (1, 3)])) 0x8F15
    t.getV VF = 1 := by decide

/-- V-A50, with the draw left free (R161) -/
theorem test_rnd_masks_the_draw :
    let t := after (withV [(3, 0x99)]) 0xC30F
    t.getV 3 = 0x0F &&& Config.rnd 0 ∧ t.draws = 1 ∧ t.pc = 0x202 := ⟨rfl, rfl, rfl⟩

/-- V-A52 -/
theorem test_rnd_zero :
    (after (withV [(3, 0x99)]) 0xC300).getV 3 = 0 := by
  show 0 &&& Config.rnd 0 = 0
  simp

/-- V-M1 -/
theorem test_ldI :
    let t := after (State.reset) 0xA2F0
    t.I = 0x2F0 ∧ t.pc = 0x202 := by decide

/-- V-M3 -/
theorem test_addI_no_wrap_at_0x1000 :
    let t := after ((withV [(2, 5), (VF, 7)]).setI 0xFFE) 0xF21E
    t.I = 0x1003 ∧ t.getV VF = 7 ∧ t.pc = 0x202 := by decide

/-- V-M6 -/
theorem test_addI_wraps :
    let t := after ((withV [(2, 0xFF)]).setI 0xFF80) 0xF21E
    t.I = 0x7F ∧ t.pc = 0x202 := by decide

/-- V-M8 -/
theorem test_ldF_glyph :
    let t := after (withV [(3, 0xA)]) 0xF329
    t.I = 0x32 ∧ t.pc = 0x202 := by decide

/-- V-M11 -/
theorem test_ldF_whole_value :
    let t := after (withV [(3, 0xFF)]) 0xF329
    t.I = 0x4FB ∧ t.pc = 0x202 := by decide

/-- V-M17 -/
theorem test_ldB :
    let t := after ((withV [(4, 0x9C)]).setI 0x300) 0xF433
    t.readByte 0x300 = 1 ∧ t.readByte 0x301 = 5 ∧ t.readByte 0x302 = 6 ∧ t.I = 0x300 ∧ t.pc = 0x202 := by decide

/-- V-M25 -/
theorem test_store :
    let t := after (withMem ((withV [(0, 0x11), (1, 0x22), (2, 0x33), (3, 0x44)]).setI 0x400) 0x403 [0xEE]) 0xF255
    t.readByte 0x400 = 0x11 ∧ t.readByte 0x402 = 0x33 ∧ t.readByte 0x403 = 0xEE ∧ t.I = 0x400 ∧ t.pc = 0x202 := by decide

/-- V-M33 -/
theorem test_load_font :
    let t := after (State.reset) 0xFF65
    t.getV 0 = 0xF0 ∧ t.getV 5 = 0x20 ∧ t.getV 9 = 0x70 ∧ t.getV VF = 0xF0 ∧ t.I = 0 ∧ t.pc = 0x202 := by decide

/-- V-T1 -/
theorem test_ldVxDT :
    let t := after ({ withV [(5, 1)] with DT := 0x3C }) 0xF507
    t.getV 5 = 0x3C ∧ t.DT = 0x3C ∧ t.pc = 0x202 := by decide

/-- V-K4 -/
theorem test_ldVxK_highest :
    let t := after ({ withV [(6, 0x77)] with KEY := 0x0208 }) 0xF60A
    t.getV 6 = 9 ∧ t.pc = 0x202 := by decide

/-- V-T2 -/
theorem test_ldDTVx :
    let t := after (withV [(5, 0x3C)]) 0xF515
    t.DT = 0x3C ∧ t.pc = 0x202 := by decide

/-- V-T6 -/
theorem test_ldSTVx :
    let t := after ({ withV [(3, 9)] with DT := 5 }) 0xF318
    t.DT = 5 ∧ t.getV 3 = 9 ∧ t.diagSeen = false ∧ t.pc = 0x202 := by decide

/-- V-M22 -/
theorem test_ldB_no_partial_write :
    let t := after (withMem ((withV [(4, 0xFF)]).setI 0xFFE) 0xFFE [0xAA, 0xBB]) 0xF433
    t.faultInfo = some ⟨0x200, some 0xF433, .access 0xFFE 3⟩ ∧ t.readByte 0xFFE = 0xAA ∧ t.readByte 0xFFF = 0xBB ∧ t.pc = 0x200 := by decide

/-- V-M27 -/
theorem test_store_no_partial_write :
    let t := after (withMem ((withV [(0, 0x5A), (1, 0xA5)]).setI 0xFFF) 0xFFF [0x77]) 0xF155
    t.faultInfo = some ⟨0x200, some 0xF155, .access 0xFFF 2⟩ ∧ t.readByte 0xFFF = 0x77 := by decide

/-- V-M32 -/
theorem test_load_no_partial_load :
    let t := after (withMem ((withV [(0, 1), (1, 2)]).setI 0xFFF) 0xFFF [0x77]) 0xF165
    t.fault = .memoryOutOfRange ∧ t.getV 0 = 1 ∧ t.getV 1 = 2 := by decide

/-- V-K1 -/
theorem test_ldVxK_waits :
    let t := after (withV [(6, 0x77)]) 0xF60A
    t.getV 6 = 0x77 ∧ t.pc = 0x200 ∧ t.fault = .none := by decide

/-! ### Fetch, `UNIMPL`, the faulted machine -/

/-- V-U1 -/
theorem test_unimplemented :
    let t := after { State.reset with DT := 9 } 0x0000
    t.diagSeen = true ∧ t.diagEvents = [⟨0x200, 0x0000⟩] ∧ t.pc = 0x202 ∧ t.fault = .none ∧ t.DT = 9 := by decide

/-- V-U9 -/
theorem test_faulted_exec_inert :
    let t := afterCmd { State.reset with fault := .stackOverflow } .exec
    t.diagSeen = false ∧ t.pc = 0x200 ∧ t.fault = .stackOverflow := by decide

/-- V-F1 -/
theorem test_fetch_last_address :
    let t := afterCmd (State.reset.setPc 0xFFE) .exec
    t.pc = 0x1000 ∧ t.diagSeen = true := by decide

/-- V-F2 -/
theorem test_fetch_out_of_range :
    let t := afterCmd (State.reset.setPc 0xFFF) .exec
    t.fault = .memoryOutOfRange ∧ t.faultInfo = some ⟨0xFFF, none, .access 0xFFF 2⟩ ∧ t.pc = 0xFFF := by decide

/-- V-F4 -/
theorem test_fetch_no_wrap :
    let t := afterCmd (State.reset.setPc 0xFFFF) .exec
    t.fault = .memoryOutOfRange ∧ t.pc = 0xFFFF := by decide

/-- V-F5 -/
theorem test_fetch_odd_pc :
    let t := after (State.reset.setPc 0x201) 0x6A7F
    t.getV 0xA = 0x7F ∧ t.pc = 0x203 := by decide

/-- V-F6 -/
theorem test_fetch_big_endian :
    let t := afterCmd (withMem State.reset 0x200 [0x12, 0x34]) .exec
    t.pc = 0x234 := by decide

/-! ### The host's commands -/

/-- V-T3 -/
theorem test_tick :
    let t := afterCmd { State.reset with DT := 0x3C } .tick
    t.DT = 0x3B ∧ t.pc = 0x200 := by decide

/-- V-T5 -/
theorem test_tick_stops_at_zero :
    let t := afterCmd State.reset .tick
    t.DT = 0 := by decide

/-- V-T7 -/
theorem test_tick_when_faulted :
    let t := afterCmd { State.reset with fault := .stackOverflow, DT := 5 } .tick
    t.DT = 4 := by decide

/-- R207 -/
theorem test_keys :
    let t := afterCmd { State.reset with KEY := 0x0001 } (.keys 0x0880)
    t.keyDown 7 = true ∧ t.keyDown 11 = true ∧ t.keyDown 0 = false := by decide

/-- S1 -/
theorem test_load :
    let t := afterCmd { withV [(3, 9)] with fault := .stackOverflow } (.load [0xAB, 0xCD])
    t.loadStatus = some .ok ∧ t.readByte 0x200 = 0xAB ∧ t.readByte 0x201 = 0xCD ∧ t.readByte 0x202 = 0 ∧ t.readByte 0 = 0xF0 ∧ t.getV 3 = 0 ∧ t.fault = .none := by decide

/-- S1 with ROM_MAX = 3583: a ROM of 3584 bytes is refused and nothing of it is copied. -/
theorem test_load_too_large :
    cmdLoad (List.replicate 3584 0xAB) State.reset = { State.reset with loadStatus := some .tooLarge } := by
  rw [cmdLoad, if_pos (by rw [List.length_replicate]; decide)]
  rfl

/-- V-R1, S3 -/
theorem test_reset :
    let t := afterCmd (withMem { withV [(3, 9)] with DT := 4, sp := 2, KEY := 7 } 0x32 [1]) .reset
    t.readByte 0x32 = 0xF0 ∧ t.readByte 0x4F = 0x80 ∧ t.readByte 0x50 = 0 ∧ t.getV 3 = 0 ∧ t.DT = 0 ∧ t.sp = 0 ∧ t.KEY = 0 ∧ t.pc = 0x200 := by decide

/-! ### Witnesses: for each statement of Certificates/Slice0/Obligations.lean that has hypotheses, states and operands that
meet them together, one for each clause and at the edges of the ranges -/

/-- The state with a word at an address and pc there. -/
def atPc (s : State) (a : Nat) (op : Word) : State :=
  (s.writeBytes a [highByte op, lowByte op]).setPc (BitVec.ofNat 16 a)

/-- The state with the host's commands. -/
def withCmds (s : State) (cs : List Command) : State := { s with commands := cs }

/-- The state with a fault latched. -/
def faulted (s : State) : State := s.raise .stackOverflow (some 0x2300) .nothing

theorem test_witness_EncodeDecodeRoundTrip : decodeWord 0xDEFF = .ok (.drw 0xE 0xF 0xF) := rfl

theorem test_witness_DecodeFollowsOpcodeMap :
    decodeWord 0x8FFE = .ok (.shl 0xF 0xF) ∧ (⟨"8xyE", 0x800E, 0xF00F⟩ : Row) ∈ opcodeTable
    ∧ (⟨"8xyE", 0x800E, 0xF00F⟩ : Row).selects 0x8FFE = true := ⟨rfl, by decide, by decide⟩

/-- One word of each family, next to an instruction's. -/
theorem test_witness_UnimplementedSpaceByFamily :
    decodeWord 0x00DF = .error (.unimplemented 0x00DF) ∧ decodeWord 0x5FF1 = .error (.unimplemented 0x5FF1)
    ∧ decodeWord 0x800F = .error (.unimplemented 0x800F) ∧ decodeWord 0x9FFF = .error (.unimplemented 0x9FFF)
    ∧ decodeWord 0xEF9D = .error (.unimplemented 0xEF9D) ∧ decodeWord 0xFF66 = .error (.unimplemented 0xFF66) :=
  ⟨rfl, rfl, rfl, rfl, rfl, rfl⟩

/-- At the last fetchable address, with no command and with an `EXEC`. -/
theorem test_witness_StepRunsDecodedInstruction :
    (atPc State.reset 4094 0x00E0).fault = .none ∧ (atPc State.reset 4094 0x00E0).AtPc .cls
    ∧ (atPc State.reset 4094 0x00E0).commands = []
    ∧ (withCmds (atPc State.reset 4094 0x00E0) [.exec, .tick]).AtPc .cls
    ∧ (withCmds (atPc State.reset 4094 0x00E0) [.exec, .tick]).fault = .none
    ∧ (withCmds (atPc State.reset 4094 0x00E0) [.exec, .tick]).commands = .exec :: [.tick] :=
  ⟨rfl, ⟨by decide, rfl⟩, rfl, ⟨by decide, rfl⟩, rfl, rfl⟩

theorem test_witness_EmptyQueueStepIsExec : State.reset.commands = [] := rfl

/-- A latched fault; the first address no fetch reaches; the last one it does. -/
theorem test_witness_ExecFetchesBigEndianWord :
    ((withCmds (faulted State.reset) [.exec]).commands = .exec :: [] ∧ (withCmds (faulted State.reset) [.exec]).fault ≠ .none)
    ∧ ((withCmds (State.reset.setPc 4095) [.exec]).commands = .exec :: []
      ∧ (withCmds (State.reset.setPc 4095) [.exec]).fault = .none
      ∧ (withCmds (State.reset.setPc 4095) [.exec]).pc.toNat + 1 > 4095)
    ∧ ((withCmds (State.reset.setPc 4094) [.exec]).commands = .exec :: []
      ∧ (withCmds (State.reset.setPc 4094) [.exec]).fault = .none
      ∧ (withCmds (State.reset.setPc 4094) [.exec]).pc.toNat + 1 ≤ 4095) := by decide

theorem test_witness_UnimplementedWordAdvances :
    let s := withCmds (atPc State.reset 4094 0x00E1) [.exec, .tick]
    s.commands = .exec :: [.tick] ∧ s.fault = .none ∧ s.pc.toNat ≤ 4094
    ∧ (0x00E1 : Word).toNat = (s.readByte s.pc.toNat).toNat * 256 + (s.readByte (s.pc.toNat + 1)).toNat
    ∧ ∀ r ∈ opcodeTable, r.selects 0x00E1 = false := by decide

theorem test_witness_FaultedExecIsInert :
    (withCmds (faulted State.reset) [.exec]).commands = .exec :: [] ∧ (withCmds (faulted State.reset) [.exec]).fault ≠ .none
    ∧ (withCmds (faulted State.reset) [.tick]).commands = .tick :: [] ∧ (withCmds (faulted State.reset) [.tick]).fault ≠ .none
    ∧ (withCmds (faulted State.reset) [.keys 0x8001]).commands = .keys 0x8001 :: []
    ∧ (withCmds (faulted State.reset) [.keys 0x8001]).fault ≠ .none := by decide

theorem test_witness_TickDecrementsToZero :
    (withCmds (State.reset.setDT 1) [.tick]).commands = .tick :: [] ∧ (withCmds (State.reset.setDT 1) [.tick]).DT.toNat > 0
    ∧ (withCmds State.reset [.tick]).commands = .tick :: [] ∧ (withCmds State.reset [.tick]).DT.toNat = 0 := by decide

theorem test_witness_KeysReplaceAllFlags :
    (withCmds State.reset [.keys 0x8001]).commands = .keys 0x8001 :: [] := rfl

theorem test_witness_ResetRestoresEveryElement :
    (withCmds (faulted State.reset) [.reset, .exec]).commands = .reset :: [.exec] := rfl

/-- A ROM of a given length, every byte 0xAB. -/
def romOf (n : Nat) : List Byte := List.replicate n 0xAB

theorem romOf_length (n : Nat) : (romOf n).length = n := List.length_replicate

/-- A ROM at the limit and one above it, for either value of `ROM_MAX`. -/
theorem test_witness_LoadCopiesRomAfterReset :
    (withCmds State.reset [.load (romOf 3583)]).commands = .load (romOf 3583) :: []
    ∧ (romOf 3583).length ≤ romMaxBytes (withCmds State.reset [.load (romOf 3583)]).params.romMax
    ∧ (withCmds State.reset [.load (romOf 3584)]).commands = .load (romOf 3584) :: []
    ∧ (romOf 3584).length > romMaxBytes (withCmds State.reset [.load (romOf 3584)]).params.romMax
    ∧ (romOf 3584).length ≤ romMaxBytes .bytes3584 ∧ (romOf 3585).length > romMaxBytes .bytes3584 := by
  simp only [romOf_length]
  refine ⟨rfl, ?_, rfl, ?_, by decide, by decide⟩
  · show 3583 ≤ romMaxBytes .bytes3583
    decide
  · show 3584 > romMaxBytes .bytes3583
    decide

theorem test_witness_OversizeLoadLeavesResetState :
    (romOf 3584).length > romMaxBytes State.reset.params.romMax ∧ (romOf 3585).length > 3584
    ∧ (romOf 3583).length ≤ romMaxBytes State.reset.params.romMax := by
  simp only [romOf_length]
  decide

/-- A state with a listed byte, a live entry, a latched fault and an event. -/
def busy : State :=
  ((atPc { State.reset with sp := 1, stack := State.reset.stack.set 0 0x0FFE } 0x200 0x00EE).raise
    .stackUnderflow (some 0x00EE) .nothing).emitUnimplemented 0x0000

theorem test_witness_StepKeepsInvariant :
    busy.Inv ∧ ∃ t, step busy = .next t :=
  ⟨⟨by decide, fun k hk => by revert k; decide, by decide, by decide⟩, ⟨_, rfl⟩⟩

theorem test_witness_InstructionsLeaveHostSideAlone : ∃ t, exec (.jp 0x200) busy = .next t := ⟨_, rfl⟩

/-- One instruction that writes each element. -/
theorem test_witness_OnlyNamedInstructionsWriteEachElement :
    (∃ t, exec (.ldI 5) State.reset = .next t ∧ t.I ≠ State.reset.I)
    ∧ (∃ t, exec .ret busy = .next t ∧ t.sp ≠ busy.sp)
    ∧ (∃ t, exec (.call 0x300) busy = .next t ∧ t.stack ≠ busy.stack ∧ t.sp ≠ busy.sp ∧ t.V = busy.V)
    ∧ (∃ t, exec (.ldDTVx 1) (withV [(1, 7)]) = .next t ∧ t.DT ≠ (withV [(1, 7)]).DT)
    ∧ (∃ t, exec (.drw 0 0 1) State.reset = .next t ∧ t.FB ≠ State.reset.FB)
    ∧ (∃ t, exec (.store 0) State.reset = .next t ∧ ∃ a, t.readByte a ≠ State.reset.readByte a)
    ∧ (∃ t, exec (.rnd 0 0) State.reset = .next t ∧ t.draws ≠ State.reset.draws) :=
  ⟨⟨_, rfl, by decide⟩, ⟨_, rfl, by decide⟩, ⟨_, rfl, by decide, by decide, rfl⟩, ⟨_, rfl, by decide⟩, ⟨_, rfl, by decide⟩,
    ⟨_, rfl, 0, by decide⟩, ⟨_, rfl, by decide⟩⟩

/-- The reset state with one pixel lit. -/
def onePixel : State := State.reset.setFB (fbFlip fbBlank 31 63)

/-- The four steps that change the framebuffer. -/
theorem test_witness_FramebufferChangesInThreeWays :
    (∃ t, step (atPc State.reset 0x200 0xD001) = .next t ∧ t.FB ≠ (atPc State.reset 0x200 0xD001).FB)
    ∧ (∃ t, step (withCmds (atPc onePixel 0x200 0x00E0) [.exec]) = .next t ∧ t.FB ≠ onePixel.FB)
    ∧ (∃ t, step (withCmds onePixel [.reset]) = .next t ∧ t.FB ≠ onePixel.FB)
    ∧ (∃ t, step (withCmds onePixel [.load [0x12]]) = .next t ∧ t.FB ≠ onePixel.FB) :=
  ⟨⟨_, rfl, by decide⟩, ⟨_, rfl, by decide⟩, ⟨_, rfl, by decide⟩, ⟨_, rfl, by decide⟩⟩

/-- A fault of the last instruction a fetch can reach, and one of the fetch after it. -/
theorem test_witness_FaultsArePrecise :
    ((withCmds (atPc State.reset 4094 0x00EE) [.exec]).commands = .exec :: []
      ∧ (withCmds (atPc State.reset 4094 0x00EE) [.exec]).fault = .none
      ∧ ∃ t, step (withCmds (atPc State.reset 4094 0x00EE) [.exec]) = .next t ∧ t.fault ≠ .none)
    ∧ ((withCmds (State.reset.setPc 4095) [.exec]).commands = .exec :: []
      ∧ (withCmds (State.reset.setPc 4095) [.exec]).fault = .none
      ∧ ∃ t, step (withCmds (State.reset.setPc 4095) [.exec]) = .next t ∧ t.fault ≠ .none) :=
  ⟨⟨rfl, rfl, _, rfl, by decide⟩, ⟨rfl, rfl, _, rfl, by decide⟩⟩

/-- Each check just passed and just failed. -/
theorem test_witness_FaultsExactlyWhenCheckFails :
    faultOf (.call 0) { State.reset with sp := 16 } = some (.stackOverflow, .nothing)
    ∧ faultOf (.call 0) { State.reset with sp := 15 } = none
    ∧ faultOf .ret State.reset = some (.stackUnderflow, .nothing) ∧ faultOf .ret { State.reset with sp := 1 } = none
    ∧ faultOf (.skp 1) (withV [(1, 16)]) = some (.keyIndexOutOfRange, .key 16) ∧ faultOf (.skp 1) (withV [(1, 15)]) = none
    ∧ faultOf (.sknp 1) (withV [(1, 16)]) = some (.keyIndexOutOfRange, .key 16) ∧ faultOf (.sknp 1) (withV [(1, 15)]) = none
    ∧ faultOf (.drw 0 0 15) (State.reset.setI 4082) = some (.memoryOutOfRange, .access 4082 15)
    ∧ faultOf (.drw 0 0 15) (State.reset.setI 4081) = none ∧ faultOf (.drw 0 0 0) (State.reset.setI 65535) = none
    ∧ faultOf (.ldB 0) (State.reset.setI 4094) = some (.memoryOutOfRange, .access 4094 3)
    ∧ faultOf (.ldB 0) (State.reset.setI 4093) = none
    ∧ faultOf (.store 15) (State.reset.setI 4081) = some (.memoryOutOfRange, .access 4081 16)
    ∧ faultOf (.store 15) (State.reset.setI 4080) = none
    ∧ faultOf (.load 0) (State.reset.setI 4096) = some (.memoryOutOfRange, .access 4096 1)
    ∧ faultOf (.load 0) (State.reset.setI 4095) = none := by decide

theorem test_witness_ParkedStaysParked :
    (atPc State.reset 4094 0x1FFE).Parked ∧ (atPc State.reset 4094 0x1FFE).fault = .none
    ∧ (atPc State.reset 4094 0x1FFE).commands = []
    ∧ (withCmds (atPc State.reset 4094 0x1FFE) [.tick]).Parked ∧ (withCmds (atPc State.reset 4094 0x1FFE) [.tick]).fault = .none
    ∧ (withCmds (atPc State.reset 4094 0x1FFE) [.tick]).commands = .tick :: [] :=
  ⟨⟨0xFFE, ⟨by decide, rfl⟩, by decide⟩, rfl, rfl, ⟨0xFFE, ⟨by decide, rfl⟩, by decide⟩, rfl, rfl⟩

theorem test_witness_WaitingLastsUntilKeyIsDown :
    (atPc State.reset 0x200 0xFF0A).Waiting ∧ (atPc State.reset 0x200 0xFF0A).fault = .none
    ∧ (atPc State.reset 0x200 0xFF0A).commands = []
    ∧ (withCmds (atPc State.reset 0x200 0xFF0A) [.tick]).Waiting
    ∧ (withCmds (atPc State.reset 0x200 0xFF0A) [.tick]).fault = .none
    ∧ (withCmds (atPc State.reset 0x200 0xFF0A) [.tick]).commands = .tick :: []
    ∧ (withCmds (atPc State.reset 0x200 0xFF0A) [.keys 0x8000]).Waiting
    ∧ (withCmds (atPc State.reset 0x200 0xFF0A) [.keys 0x8000]).fault = .none
    ∧ (withCmds (atPc State.reset 0x200 0xFF0A) [.keys 0x8000]).commands = [.keys 0x8000] ∧ (0x8000 : BitVec 16) ≠ 0 :=
  ⟨⟨0xF, ⟨by decide, rfl⟩, rfl⟩, rfl, rfl, ⟨0xF, ⟨by decide, rfl⟩, rfl⟩, rfl, rfl, ⟨0xF, ⟨by decide, rfl⟩, rfl⟩, rfl, rfl,
    by decide⟩

theorem test_witness_FramebufferReachesOnlyVF : (0 : Reg) ≠ VF ∧ ∀ x y n, Instr.cls ≠ .drw x y n :=
  ⟨by decide, fun _ _ _ => by simp⟩

/-- The last sprite that fits, its last bit, which wraps at both edges, and a pixel that no bit of it reaches; a sprite of
no rows, at any `I`. -/
theorem test_witness_DrawTogglesSpritePixels :
    let s := (withV [(1, 63), (2, 31)]).setI 4081
    s.I.toNat + (15 : Fin 16).val - 1 ≤ 4095
    ∧ ((13 : Fin 32).val = ((s.getV 2).toNat % 32 + 14) % 32 ∧ (6 : Fin 64).val = ((s.getV 1).toNat % 64 + 7) % 64)
    ∧ (∀ row col, row < (15 : Fin 16).val → col < 8 →
        ¬((14 : Fin 32).val = ((s.getV 2).toNat % 32 + row) % 32 ∧ (6 : Fin 64).val = ((s.getV 1).toNat % 64 + col) % 64))
    ∧ ((0 : Fin 16).val = 0 ∨ (State.reset.setI 65535).I.toNat + (0 : Fin 16).val - 1 ≤ 4095) := by
  refine ⟨by decide, by decide, fun row col h1 h2 h => ?_, by decide⟩
  have e : ((((withV [(1, 63), (2, 31)]).setI 4081).getV 2).toNat % 32 + row) % 32 = (31 + row) % 32 := rfl
  have h3 := e ▸ h.1
  simp at h1 h3
  omega

theorem test_witness_DrawReportsCollision :
    (15 : Fin 16).val = 0 ∨ (State.reset.setI 4081).I.toNat + (15 : Fin 16).val - 1 ≤ 4095 := by decide

theorem test_witness_DrawTwiceRestoresFramebuffer :
    (0 : Reg) ≠ VF ∧ (0xE : Reg) ≠ VF
    ∧ ((15 : Fin 16).val = 0 ∨ (State.reset.setI 4081).I.toNat + (15 : Fin 16).val - 1 ≤ 4095) := by decide

theorem test_witness_ReturnResumesAfterCall :
    ({ State.reset with sp := 16 } : State).sp.val = (15 : Fin 16).val + 1
    ∧ ({ State.reset with sp := 1 } : State).sp.val = (0 : Fin 16).val + 1 := by decide

theorem test_witness_CallPushesOwnAddress :
    ({ State.reset with sp := 15 } : State).sp.val = (15 : Fin 16).val ∧ State.reset.sp.val = (0 : Fin 16).val := by decide

theorem test_witness_CallThenReturnResumes : ({ State.reset with sp := 15 } : State).sp.val < 16 := by decide

theorem test_witness_KeySkipsTestNamedKey :
    ((withV [(VF, 15)]).getV VF).toNat = (15 : Fin 16).val ∧ ((withV [(VF, 15)]).getV 0).toNat = (0 : Fin 16).val := by decide

/-- The operands of the flag-setting instructions other than VF. -/
theorem test_witness_AddSetsCarry : (0 : Reg) ≠ VF ∧ (0xE : Reg) ≠ VF := by decide
theorem test_witness_SubtractSetsGreater : (0xE : Reg) ≠ VF ∧ (0xE : Reg) ≠ VF := by decide
theorem test_witness_ShiftsMoveBitToVF : (0xE : Reg) ≠ VF := by decide

theorem test_witness_FlagFirstReadsNewVF : State.reset.params.vfOrder = .flagFirst ∧ (0 : Reg) ≠ VF := by decide
theorem test_witness_ResultLastKeepsFlag : (resultLast State.reset).params.vfOrder = .resultLast ∧ (0 : Reg) ≠ VF := by decide

theorem test_witness_RandomIsMasked : (0x0F : Byte).getLsbD 4 = false ∧ (0 : Reg) ≠ 3 := by decide

theorem test_witness_BcdStoresThreeDigits : (State.reset.setI 4093).I.toNat + 2 ≤ 4095 := by decide
theorem test_witness_StoreWritesRegisterBlock : (State.reset.setI 4080).I.toNat + (15 : Reg).val ≤ 4095 := by decide
theorem test_witness_LoadReadsRegisterBlock : (State.reset.setI 4095).I.toNat + (0 : Reg).val ≤ 4095 := by decide
theorem test_witness_StoreThenLoadGivesBack :
    (State.reset.setI 4080).I.toNat + (15 : Reg).val ≤ 4095 ∧ (15 : Reg) ≤ 15 ∧ (14 : Reg) < 15 := by decide

theorem test_witness_NextFetchSeesStoredBytes :
    (14 : Reg).val + 1 < 16 ∧ (State.reset.setI 0x1F4).I.toNat + (15 : Reg).val ≤ 4095 ∧ (14 : Reg).val + 1 ≤ (15 : Reg).val
    ∧ (State.reset.setI 0x1F4).I.toNat + (14 : Reg).val = ((State.reset.setI 0x1F4).pc + 2).toNat := by decide

theorem test_witness_KeyWaitTakesHighestKey :
    ((State.reset.setKEY 0x8001).KEY.getLsbD (15 : Fin 16).val = true
      ∧ ∀ j : Fin 16, 15 < j → (State.reset.setKEY 0x8001).KEY.getLsbD j.val = false)
    ∧ ((State.reset.setKEY 0x0001).KEY.getLsbD (0 : Fin 16).val = true
      ∧ ∀ j : Fin 16, 0 < j → (State.reset.setKEY 0x0001).KEY.getLsbD j.val = false) := by decide

theorem test_witness_KeyWaitBlocksWithoutKey : ∀ j : Fin 16, State.reset.KEY.getLsbD j.val = false := by decide

end Sys2Proof.Machine.Tests
end

section
/-! SUPPORT. A step through its command: what a step is with no command waiting and with an `EXEC` waiting, and what an
`EXEC` does at a decoded instruction. -/

namespace Sys2Proof.Machine

theorem step_of_commands_nil {s : State} (h : s.commands = []) : step s = execCommand s := by
  rw [step, h]

theorem step_of_commands_exec {s : State} {rest : List Command} (h : s.commands = .exec :: rest) :
    step s = execCommand (s.setCommands rest) := by
  rw [step, h]
  rfl

/-- The instruction at pc does not depend on the waiting commands. -/
theorem State.atPc_setCommands {s : State} {rest : List Command} {i : Instr} : (s.setCommands rest).AtPc i ↔ s.AtPc i :=
  Iff.rfl

/-- With the latch clear, an `EXEC` at a decoded instruction is `exec` of it (R90, R95, R201). -/
theorem execCommand_of_atPc {s : State} {i : Instr} (hf : s.fault = .none) (h : s.AtPc i) : execCommand s = exec i s := by
  obtain ⟨hp, hd⟩ := h
  exact execCommand_ok hf hp (decode_pair_ok.mp hd)

/-- Settles O6: either way the step is an `EXEC`, and the `EXEC` runs the instruction at pc. -/
theorem stepRunsDecodedInstruction : Obligations.StepRunsDecodedInstruction := by
  intro s i hf hi
  constructor
  · intro hc
    rw [step_of_commands_nil hc, execCommand_of_atPc hf hi]
  · intro rest hc
    rw [step_of_commands_exec hc]
    exact execCommand_of_atPc hf (State.atPc_setCommands.mpr hi)

end Sys2Proof.Machine
end

section
/-! SUPPORT. What an instruction can do to the state, said once: the kinds of next state an instruction answers, and what
each kind leaves unchanged. -/

namespace Sys2Proof.Machine

/-- The instructions that write no general register: those whose effect is on pc, the stack, `I` or the framebuffer alone. -/
def NamesNoRegister (i : Instr) : Prop :=
  i = .cls ∨ i = .ret ∨ (∃ n, i = .jp n) ∨ (∃ n, i = .call n) ∨ (∃ n, i = .ldI n) ∨ (∃ x, i = .ldSTVx x)

/-- `Effect i s t`: the kinds of next state `t` that `exec i s` answers, one constructor per set of elements written. The
values written are not fixed; which instructions write which elements is. -/
inductive Effect : Instr → State → State → Prop
  | fault {i : Instr} {s : State} {c : FaultCause} (d : FaultDetail) (hc : c ≠ .none) :
      Effect i s (s.raise c (some (encode i)) d)
  | pcAlone {i : Instr} {s : State} (a : Word) : Effect i s (s.setPc a)
  | registers {i : Instr} {s : State} (V : Vector Byte 16) (a : Word) (hi : ¬ NamesNoRegister i) :
      Effect i s { s with V := V, pc := a }
  | random {s : State} {x : Reg} {nn : Byte} (v : Byte) : Effect (.rnd x nn) s (s.countDraw.setV x v).advance
  | index {i : Instr} {s : State} (v : Word) (hi : (∃ n, i = .ldI n) ∨ (∃ x, i = .addI x) ∨ (∃ x, i = .ldF x)) :
      Effect i s (s.setI v).advance
  | timer {s : State} {x : Reg} (v : Byte) : Effect (.ldDTVx x) s (s.setDT v).advance
  | memory {i : Instr} {s : State} (vs : List Byte) (hi : (∃ x, i = .ldB x) ∨ ∃ x, i = .store x) :
      Effect i s (s.writeBytes s.I.toNat vs).advance
  | ret {s : State} (h : 0 < s.sp.val) : Effect .ret s (s.pop.setPc (s.top h + 2))
  | call {s : State} {nnn : Addr} (h : s.sp.val < 16) : Effect (.call nnn) s ((s.push s.pc h).setPc (addrWord nnn))
  | clear {s : State} : Effect .cls s (s.setFB fbBlank).advance
  | draw {s : State} {x y : Reg} {n : Fin 16} (fb : Vector (Vector Bool 64) 32) (v : Byte) :
      Effect (.drw x y n) s ((s.setFB fb).setV VF v).advance

/-! ### The instructions that look at keys, case by case -/

section
variable {s : State} {x : Reg} {k : Fin 16}

theorem exec_skp_of_key (h : keyIndex (s.getV x) = some k) : exec (.skp x) s = .next (s.skipIf (s.keyDown k)) := by
  simp only [exec, execSkp, h]

theorem exec_skp_of_no_key (h : keyIndex (s.getV x) = none) :
    exec (.skp x) s = .next (s.raise .keyIndexOutOfRange (some (encode (.skp x))) (.key (s.getV x))) := by
  simp only [exec, execSkp, h]

theorem exec_sknp_of_key (h : keyIndex (s.getV x) = some k) : exec (.sknp x) s = .next (s.skipIf (!s.keyDown k)) := by
  simp only [exec, execSknp, h]

theorem exec_sknp_of_no_key (h : keyIndex (s.getV x) = none) :
    exec (.sknp x) s = .next (s.raise .keyIndexOutOfRange (some (encode (.sknp x))) (.key (s.getV x))) := by
  simp only [exec, execSknp, h]

theorem exec_ldVxK_of_found (h : s.lastKeyDown none allRegs = some k) :
    exec (.ldVxK x) s = .next (s.setV x (BitVec.ofNat 8 k.val)).advance := by
  simp only [exec, execLdVxK, h]

theorem exec_ldVxK_of_none_found (h : s.lastKeyDown none allRegs = none) : exec (.ldVxK x) s = .next s := by
  simp only [exec, execLdVxK, h]

end

/-! ### Every instruction answers one of the kinds -/

theorem Effect.flagged {i : Instr} {s : State} (x : Reg) (flag : Byte) (op : State → Byte) (hi : ¬ NamesNoRegister i) :
    Effect i s (s.writeFlagged x flag op).advance := by
  rw [State.writeFlagged_eq]
  exact .registers _ _ hi

theorem Effect.loaded {i : Instr} {s : State} (a : Nat) (ks : List Reg) (hi : ¬ NamesNoRegister i) :
    Effect i s (s.loadRegs a ks).advance := by
  rw [State.loadRegs_eq]
  exact .registers _ _ hi

/-- Every instruction answers a next state, of the kind its row says. -/
theorem exec_effect (i : Instr) (s : State) : ∃ t, exec i s = .next t ∧ Effect i s t := by
  cases i with
  | cls => exact ⟨_, rfl, .clear⟩
  | ret =>
    by_cases h : 0 < s.sp.val
    · exact ⟨_, dif_pos h, .ret h⟩
    · exact ⟨_, dif_neg h, .fault _ (by decide)⟩
  | call nnn =>
    by_cases h : s.sp.val < 16
    · exact ⟨_, dif_pos h, .call h⟩
    · exact ⟨_, dif_neg h, .fault _ (by decide)⟩
  | drw x y n =>
    by_cases h : inRange s.I.toNat n.val = true
    · exact ⟨_, if_pos h, .draw _ _⟩
    · exact ⟨_, if_neg h, .fault _ (by decide)⟩
  | ldB x =>
    by_cases h : inRange s.I.toNat 3 = true
    · exact ⟨_, if_pos h, .memory _ (.inl ⟨x, rfl⟩)⟩
    · exact ⟨_, if_neg h, .fault _ (by decide)⟩
  | store x =>
    by_cases h : inRange s.I.toNat (x.val + 1) = true
    · exact ⟨_, if_pos h, .memory _ (.inr ⟨x, rfl⟩)⟩
    · exact ⟨_, if_neg h, .fault _ (by decide)⟩
  | load x =>
    by_cases h : inRange s.I.toNat (x.val + 1) = true
    · exact ⟨_, if_pos h, .loaded _ _ (by simp [NamesNoRegister])⟩
    · exact ⟨_, if_neg h, .fault _ (by decide)⟩
  | skp x =>
    cases h : keyIndex (s.getV x) with
    | some k => exact ⟨_, exec_skp_of_key h, .pcAlone _⟩
    | none => exact ⟨_, exec_skp_of_no_key h, .fault _ (by decide)⟩
  | sknp x =>
    cases h : keyIndex (s.getV x) with
    | some k => exact ⟨_, exec_sknp_of_key h, .pcAlone _⟩
    | none => exact ⟨_, exec_sknp_of_no_key h, .fault _ (by decide)⟩
  | ldVxK x =>
    cases h : s.lastKeyDown none allRegs with
    | some k => exact ⟨_, exec_ldVxK_of_found h, .registers _ _ (by simp [NamesNoRegister])⟩
    | none => exact ⟨_, exec_ldVxK_of_none_found h, .pcAlone s.pc⟩
  | jp | jpV0 | seImm | sneImm | seReg | sneReg | ldSTVx => exact ⟨_, rfl, .pcAlone _⟩
  | ldI nnn => exact ⟨_, rfl, .index _ (.inl ⟨nnn, rfl⟩)⟩
  | addI x => exact ⟨_, rfl, .index _ (.inr (.inl ⟨x, rfl⟩))⟩
  | ldF x => exact ⟨_, rfl, .index _ (.inr (.inr ⟨x, rfl⟩))⟩
  | ldDTVx => exact ⟨_, rfl, .timer _⟩
  | rnd => exact ⟨_, rfl, .random _⟩
  | addReg | subReg | shr | subn | shl => exact ⟨_, rfl, .flagged _ _ _ (by simp [NamesNoRegister])⟩
  | ldImm | addImm | ldReg | orReg | andReg | xorReg | ldVxDT =>
    exact ⟨_, rfl, .registers _ _ (by simp [NamesNoRegister])⟩

theorem effect_of_exec {i : Instr} {s t : State} (h : exec i s = .next t) : Effect i s t := by
  obtain ⟨u, hu, e⟩ := exec_effect i s
  obtain rfl : u = t := Host.Outcome.next.inj (hu.symm.trans h)
  exact e

end Sys2Proof.Machine
end

section
/-! SUPPORT. The invariant, command by command: what keeps each of its four parts. -/

namespace Sys2Proof.Machine

/-! ### What an instruction leaves unchanged or keeps -/

/-- No instruction writes the host's side of the state (R33, R35, R203). -/
theorem Effect.hostSide {i : Instr} {s t : State} (e : Effect i s t) :
    t.KEY = s.KEY ∧ t.diagSeen = s.diagSeen ∧ t.diagEvents = s.diagEvents ∧ t.loadStatus = s.loadStatus
    ∧ t.commands = s.commands ∧ t.params = s.params := by
  cases e with
  | memory => simp
  | _ => exact ⟨rfl, rfl, rfl, rfl, rfl, rfl⟩

/-- An instruction leaves the latch and `fault_info` as they are, or takes a fault and does nothing else (R194). -/
theorem Effect.latch {i : Instr} {s t : State} (e : Effect i s t) :
    (t.fault = s.fault ∧ t.faultInfo = s.faultInfo) ∨ ∃ c d, c ≠ .none ∧ t = s.raise c (some (encode i)) d := by
  cases e with
  | fault d hc => exact .inr ⟨_, d, hc, rfl⟩
  | memory => exact .inl (by simp)
  | _ => exact .inl ⟨rfl, rfl⟩

theorem Effect.memWf {i : Instr} {s t : State} (e : Effect i s t) (h : memWf s.params s.mem = true) :
    memWf t.params t.mem = true := by
  cases e with
  | memory vs => simpa using State.memWf_writeBytes s.I.toNat vs h
  | _ => exact h

/-- A call pushes its own address, which a fetch has just used (R43, R132). -/
theorem Effect.liveEntriesFetchable {i : Instr} {s t : State} (e : Effect i s t) (hpc : s.pc.toNat ≤ 4094)
    (h : s.LiveEntriesFetchable) : t.LiveEntriesFetchable := by
  cases e with
  | memory => intro k; simpa using h k
  | ret hs => exact fun k hk => h k (Nat.lt_of_lt_of_le hk (Nat.sub_le _ _))
  | call hs =>
    intro k hk
    have hk' : k.val < s.sp.val + 1 := hk
    rw [State.setPc_stack, State.push_stack_get]
    split
    · exact hpc
    · exact h k (by omega)
  | _ => exact h

/-! ### What keeps the invariant -/

/-- Raising a fault sets the latch together with `fault_info`. -/
theorem State.Inv.raise {s : State} (h : s.Inv) {c : FaultCause} (hc : c ≠ .none) (op : Option Word) (d : FaultDetail) :
    (s.raise c op d).Inv := by
  obtain ⟨hmem, hlive, -, hdiag⟩ := h
  exact ⟨hmem, hlive, by simp [hc], hdiag⟩

/-- An instruction keeps the invariant when it stands where a fetch can reach it. -/
theorem Effect.inv {i : Instr} {s t : State} (e : Effect i s t) (hpc : s.pc.toNat ≤ 4094) (h : s.Inv) : t.Inv := by
  obtain ⟨hfault, hinfo⟩ | ⟨c, d, hc, rfl⟩ := e.latch
  · obtain ⟨hmem, hlive, hlatch, hdiag⟩ := h
    obtain ⟨-, hseen, hevents, -, -, -⟩ := e.hostSide
    exact ⟨e.memWf hmem, e.liveEntriesFetchable hpc hlive, by rwa [hfault, hinfo], by rwa [hseen, hevents]⟩
  · exact h.raise hc _ d

theorem State.Inv.emitUnimplemented {s : State} (h : s.Inv) (op : Word) : (s.emitUnimplemented op).Inv := by
  obtain ⟨hmem, hlive, hlatch, -⟩ := h
  exact ⟨hmem, hlive, hlatch, by simp⟩

/-- Whatever the state, memory after a reset lists nothing and no stack entry is live. -/
theorem State.inv_toReset (s : State) : s.toReset.Inv :=
  ⟨rfl, fun _ hk => absurd hk (Nat.not_lt_zero _), by simp [State.toReset_eq, State.reset], by simp [State.toReset_eq, State.reset]⟩

theorem State.Inv.copyRom {s : State} (h : s.Inv) (rom : List Byte) : (s.copyRom rom).Inv := by
  obtain ⟨hmem, hlive, hlatch, hdiag⟩ := h
  rw [State.copyRom_eq]
  exact ⟨by simpa [State.copyRom] using State.memWf_writeBytes progBase rom hmem, hlive, hlatch, hdiag⟩

theorem inv_cmdLoad (rom : List Byte) (s : State) : (cmdLoad rom s).Inv := by
  unfold cmdLoad
  split
  · exact s.inv_toReset
  · exact s.inv_toReset.copyRom rom

theorem State.Inv.cmdTick {s : State} (h : s.Inv) : (cmdTick s).Inv := by
  rw [(cmdTick_eq s).1]
  exact h

theorem State.Inv.execCommand {s t : State} (h : s.Inv) (ht : execCommand s = .next t) : t.Inv := by
  obtain ⟨-, rfl⟩ | ⟨-, -, rfl⟩ | ⟨-, hpc, i, -, hi⟩ | ⟨-, -, -, rfl⟩ := execCommand_cases ht
  · exact h
  · exact h.raise (by decide) none _
  · exact (effect_of_exec hi).inv hpc h
  · exact h.emitUnimplemented _

/-- Settles O17, command by command. -/
theorem stepKeepsInvariant : Obligations.StepKeepsInvariant := by
  intro s t h ht
  have hset : ∀ rest, (s.setCommands rest).Inv := fun _ => h
  obtain ⟨-, he⟩ | ⟨rest, -, he⟩ | ⟨rest, -, rfl⟩ | ⟨k, rest, -, rfl⟩ | ⟨rest, -, rfl⟩ | ⟨rom, rest, -, rfl⟩ := step_cases ht
  · exact h.execCommand he
  · exact (hset rest).execCommand he
  · exact (hset rest).cmdTick
  · exact h
  · exact State.inv_toReset _
  · exact inv_cmdLoad rom _

/-- Settles O18: a reset state is what a reset leaves. -/
theorem resetStateMeetsInvariant : Obligations.ResetStateMeetsInvariant := State.inv_toReset State.reset

end Sys2Proof.Machine
end

section
/-! SUPPORT. Frames of the whole machine: which instructions write each element, and which steps change the framebuffer. -/

namespace Sys2Proof.Machine

/-- A byte of memory reads as before where an instruction is neither `Fx33` nor `Fx55` (R69). -/
theorem Effect.readByte {i : Instr} {s t : State} (e : Effect i s t) (hi : ¬ ((∃ x, i = .ldB x) ∨ ∃ x, i = .store x)) (a : Nat) :
    t.readByte a = s.readByte a := by
  cases e with
  | memory vs h => exact absurd h hi
  | _ => rfl

/-- Settles O20: no kind of effect writes the host's side. -/
theorem instructionsLeaveHostSideAlone : Obligations.InstructionsLeaveHostSideAlone :=
  fun _ _ _ h => (effect_of_exec h).hostSide

theorem Effect.writesFB {i : Instr} {s t : State} (e : Effect i s t) (h : t.FB ≠ s.FB) :
    i = .cls ∨ ∃ x y n, i = .drw x y n := by
  cases e with
  | clear => exact .inl rfl
  | draw => exact .inr ⟨_, _, _, rfl⟩
  | memory => simp at h
  | _ => exact absurd rfl h

theorem Effect.keepsV {i : Instr} {s t : State} (e : Effect i s t) (hi : NamesNoRegister i) : t.V = s.V := by
  cases e with
  | registers V a h => exact absurd hi h
  | random | draw => simp [NamesNoRegister] at hi
  | memory => simp
  | _ => rfl

/-- Settles O21: each kind of effect writes only its own elements. -/
theorem onlyNamedInstructionsWriteEachElement : Obligations.OnlyNamedInstructionsWriteEachElement := by
  intro i s t h
  have e := effect_of_exec h
  refine ⟨?I, ?sp, ?stack, ?DT, e.writesFB, ?mem, ?draws, e.keepsV⟩
  case mem =>
    rintro ⟨a, ha⟩
    by_contra hi
    exact ha (e.readByte hi a)
  case I => cases e with
    | index v hi => exact fun _ => hi
    | _ => simp
  case sp => cases e with
    | ret => exact fun _ => .inl rfl
    | call => exact fun _ => .inr ⟨_, rfl⟩
    | _ => simp
  case stack => cases e with
    | call => exact fun _ => ⟨_, rfl⟩
    | _ => simp
  case DT => cases e with
    | timer => exact fun _ => ⟨_, rfl⟩
    | _ => simp
  case draws => cases e with
    | random => exact fun _ => ⟨_, _, rfl⟩
    | _ => simp

/-! ### The framebuffer (R32) -/

/-- `00E0` leaves every pixel dark (R120). -/
theorem pixel_of_exec_cls {s t : State} (h : exec .cls s = .next t) (r : Fin 32) (c : Fin 64) : t.pixel r c = false := by
  cases h
  exact fbGet_fbBlank r c

theorem pixel_toReset (s : State) (r : Fin 32) (c : Fin 64) : s.toReset.pixel r c = false := fbGet_fbBlank r c

theorem pixel_cmdLoad (rom : List Byte) (s : State) (r : Fin 32) (c : Fin 64) : (cmdLoad rom s).pixel r c = false := by
  rw [cmdLoad_eq]
  exact pixel_toReset s r c

/-- An `EXEC` that changes the framebuffer is that of `Dxyn` or of `00E0`. -/
theorem execCommand_changes_FB {s t : State} (h : execCommand s = .next t) (hFB : t.FB ≠ s.FB) :
    s.fault = .none ∧ ((∃ x y n, s.AtPc (.drw x y n)) ∨ (s.AtPc .cls ∧ ∀ r c, t.pixel r c = false)) := by
  obtain ⟨-, rfl⟩ | ⟨-, -, rfl⟩ | ⟨hf, hpc, i, hdec, hi⟩ | ⟨-, -, -, rfl⟩ := execCommand_cases h
  · exact absurd rfl hFB
  · exact absurd rfl hFB
  · have hat : s.AtPc i := ⟨hpc, decode_pair_ok.mpr hdec⟩
    obtain rfl | ⟨x, y, n, rfl⟩ := (effect_of_exec hi).writesFB hFB
    · exact ⟨hf, .inr ⟨hat, pixel_of_exec_cls hi⟩⟩
    · exact ⟨hf, .inl ⟨x, y, n, hat⟩⟩
  · exact absurd rfl hFB

/-- Settles O22, command by command: `TICK` and `KEYS` keep the framebuffer, `RESET` and `LOAD` clear it. -/
theorem framebufferChangesInThreeWays : Obligations.FramebufferChangesInThreeWays := by
  intro s t h hFB
  obtain ⟨hc, he⟩ | ⟨rest, hc, he⟩ | ⟨rest, -, rfl⟩ | ⟨k, rest, -, rfl⟩ | ⟨rest, hc, rfl⟩ | ⟨rom, rest, hc, rfl⟩ := step_cases h
  · obtain ⟨hf, hi⟩ := execCommand_changes_FB he hFB
    exact .inl ⟨hf, .inl hc, hi⟩
  · obtain ⟨hf, hi⟩ := execCommand_changes_FB he hFB
    exact .inl ⟨hf, .inr ⟨rest, hc⟩, hi⟩
  · rw [(cmdTick_eq _).1] at hFB
    exact absurd rfl hFB
  · exact absurd rfl hFB
  · exact .inr ⟨.inl ⟨rest, hc⟩, pixel_toReset _⟩
  · exact .inr ⟨.inr ⟨rom, rest, hc⟩, pixel_cmdLoad rom _⟩

end Sys2Proof.Machine
end

section
/-! SUPPORT. The encoder gives back the decoded word (R93, R95, R96): a word is the concatenation of its fields, and each arm
of the decoding procedure knows the fields its pattern fixes. -/

namespace Sys2Proof

/-! ### A word is its fields (R92) -/

/-- Two neighbouring fields of a word are one field. -/
theorem append_fields (w : Word) (k m n : Nat) :
    w.extractLsb' (k + n) m ++ w.extractLsb' k n = w.extractLsb' k (m + n) :=
  BitVec.extractLsb'_append_extractLsb'_eq_extractLsb' rfl

theorem fields_fam_nnn (w : Word) : fieldFam w ++ fieldNNN w = w :=
  (append_fields w 0 4 12).trans BitVec.extractLsb'_eq_self

theorem fields_fam_x_nn (w : Word) : fieldFam w ++ nibble (fieldX w) ++ fieldNN w = w :=
  (congrArg (· ++ fieldNN w) (append_fields w 8 4 4)).trans <|
    (append_fields w 0 8 8).trans BitVec.extractLsb'_eq_self

theorem fields_fam_x_y_n (w : Word) : fieldFam w ++ nibble (fieldX w) ++ nibble (fieldY w) ++ nibble (fieldN w) = w :=
  (congrArg (· ++ nibble (fieldY w) ++ nibble (fieldN w)) (append_fields w 8 4 4)).trans <|
    (congrArg (· ++ nibble (fieldN w)) (append_fields w 4 8 4)).trans <|
      (append_fields w 0 12 4).trans BitVec.extractLsb'_eq_self

variable {w : Word} {i : Instr} {f : BitVec 4}

/-! ### The words of one format, with the family and the last field known -/

theorem word_of_fam (hf : (fieldFam w).toNat = f.toNat) : f ++ fieldNNN w = w := by
  rw [← BitVec.eq_of_toNat_eq hf, fields_fam_nnn]

theorem word_of_fam_x (hf : (fieldFam w).toNat = f.toNat) : f ++ nibble (fieldX w) ++ fieldNN w = w := by
  rw [← BitVec.eq_of_toNat_eq hf, fields_fam_x_nn]

theorem word_of_fam_nn {nn : Byte} (hf : (fieldFam w).toNat = f.toNat) (hn : (fieldNN w).toNat = nn.toNat) :
    f ++ nibble (fieldX w) ++ nn = w := by
  rw [← BitVec.eq_of_toNat_eq hn, word_of_fam_x hf]

theorem word_of_fam_xy (hf : (fieldFam w).toNat = f.toNat) :
    f ++ nibble (fieldX w) ++ nibble (fieldY w) ++ nibble (fieldN w) = w := by
  rw [← BitVec.eq_of_toNat_eq hf, fields_fam_x_y_n]

theorem word_of_fam_n {n : BitVec 4} (hf : (fieldFam w).toNat = f.toNat) (hn : (fieldN w).val = n.toNat) :
    f ++ nibble (fieldX w) ++ nibble (fieldY w) ++ n = w := by
  have h : nibble (fieldN w) = n := BitVec.eq_of_toNat_eq hn
  rw [← h, word_of_fam_xy hf]

/-! ### The decoding procedure, arm by arm -/

theorem encode_of_decodeFamily8 (hf : (fieldFam w).toNat = 8) (h : decodeFamily8 w = .ok i) : encode i = w := by
  unfold decodeFamily8 at h
  split at h <;> cases h <;> exact word_of_fam_n hf ‹_›

theorem encode_of_decodeFamilyF (hf : (fieldFam w).toNat = 15) (h : decodeFamilyF w = .ok i) : encode i = w := by
  unfold decodeFamilyF at h
  split at h <;> cases h <;> exact word_of_fam_nn hf ‹_›

/-- The instruction read from a word encodes to that word. -/
theorem encode_of_decodeWord (h : decodeWord w = .ok i) : encode i = w := by
  unfold decodeWord at h
  split at h
  case h_1 =>
    split at h
    · cases h
      exact Eq.symm ‹w = 0x00E0›
    · split at h <;> cases h
      exact Eq.symm ‹w = 0x00EE›
  case h_6 hf | h_10 hf =>
    split at h <;> cases h
    exact word_of_fam_n hf (congrArg Fin.val ‹fieldN w = 0›)
  case h_9 hf => exact encode_of_decodeFamily8 hf h
  case h_14 hf => cases h; exact word_of_fam_xy hf
  case h_15 hf =>
    split at h
    · cases h
      exact word_of_fam_nn hf (congrArg BitVec.toNat ‹fieldNN w = 0x9E›)
    · split at h <;> cases h
      exact word_of_fam_nn hf (congrArg BitVec.toNat ‹fieldNN w = 0xA1›)
  case h_2 hf | h_3 hf | h_11 hf | h_12 hf => cases h; exact word_of_fam hf
  case h_4 hf | h_5 hf | h_7 hf | h_8 hf | h_13 hf => cases h; exact word_of_fam_x hf
  case h_16 =>
    have hlt := (fieldFam w).isLt
    exact encode_of_decodeFamilyF (by grind) h

end Sys2Proof
end

section
/-! SUPPORT. A fault is precise (R194): the latch and `fault_info` with the fetched word, and nothing else. -/

namespace Sys2Proof.Machine

/-- An `EXEC` that sets a clear latch has taken a fault, either at the fetch or in the instruction it fetched. -/
theorem execCommand_raises {s t : State} (hf : s.fault = .none) (h : execCommand s = .next t) (ht : t.fault ≠ .none) :
    ∃ c d, t = s.raise c (if s.pc.toNat ≤ 4094
      then some (wordOfBytes (s.readByte s.pc.toNat) (s.readByte (s.pc.toNat + 1))) else none) d := by
  obtain ⟨hf', -⟩ | ⟨-, hpc, rfl⟩ | ⟨-, hpc, i, hdec, hi⟩ | ⟨-, -, -, rfl⟩ := execCommand_cases h
  · exact absurd hf hf'
  · rw [if_neg (by omega)]
    exact ⟨_, _, rfl⟩
  · rw [if_pos hpc, ← encode_of_decodeWord hdec]
    obtain ⟨hkeep, -⟩ | ⟨c, d, -, rfl⟩ := (effect_of_exec hi).latch
    · exact absurd (hkeep.trans hf) ht
    · exact ⟨c, d, rfl⟩
  · exact absurd hf ht

/-- Settles O23: the recorded opcode, the encoding of the decoded instruction, is the fetched word. -/
theorem faultsArePrecise : Obligations.FaultsArePrecise := by
  intro s t rest hc hf h ht
  rw [step_of_commands_exec hc] at h
  obtain ⟨c, d, rfl⟩ := execCommand_raises (s := s.setCommands rest) hf h ht
  exact ⟨rfl, _, rfl, rfl, rfl⟩

end Sys2Proof.Machine
end

section
/-! SUPPORT. The key wait, the random draw, and the reset values. -/

namespace Sys2Proof.Machine

/-- Settles O7: either step is `execCommand` of the state without waiting commands. -/
theorem emptyQueueStepIsExec : Obligations.EmptyQueueStepIsExec := by
  intro s hc
  have hs : { s with commands := [.exec] }.setCommands [] = s := by rw [← hc]; rfl
  rw [step_of_commands_nil hc, step_of_commands_exec rfl, hs]

theorem step_of_commands_tick {s : State} {rest : List Command} (h : s.commands = .tick :: rest) :
    step s = .next (cmdTick (s.setCommands rest)) := by
  rw [step, h]
  rfl

theorem step_of_commands_keys {s : State} {k : BitVec 16} {rest : List Command} (h : s.commands = .keys k :: rest) :
    step s = .next ((s.setCommands rest).setKEY k) := by
  rw [step, h]
  rfl

/-- Settles O14: reset values are literals, and no address from 80 on is in the font. -/
theorem resetStateHasSpecValues : Obligations.ResetStateHasSpecValues := by
  have hzero : ∀ a, 80 ≤ a → State.reset.readByte a = 0 := fun _ ha => resetByte_zero defaultParams ha
  exact ⟨by decide, by decide, by decide, hzero, rfl, rfl, by decide, by decide, rfl, rfl, fbGet_fbBlank, by decide,
    rfl, rfl, rfl⟩

/-! ### The key wait (R37, R181) -/

/-- With every key up `Fx0A` answers the state it was given. -/
theorem exec_ldVxK_blocked {s : State} (x : Reg) (h : ∀ j, s.keyDown j = false) : exec (.ldVxK x) s = .next s := by
  have hnone : s.lastKeyDown none allRegs = none := by
    obtain ⟨k, -, -, hk, -⟩ | ⟨hfound, -⟩ := s.lastKeyDown_spec none allRegs allRegs_rising
    · rw [h k] at hk
      contradiction
    · exact hfound
  exact exec_ldVxK_of_none_found hnone

/-- With some key down `Fx0A` completes, advancing pc. -/
theorem exec_ldVxK_completes {s : State} (x : Reg) {j : Fin 16} (h : s.keyDown j = true) :
    ∃ v, exec (.ldVxK x) s = .next (s.setV x v).advance := by
  obtain ⟨k, -, hfound, -⟩ | ⟨-, hup⟩ := s.lastKeyDown_spec none allRegs allRegs_rising
  · exact ⟨_, exec_ldVxK_of_found hfound⟩
  · rw [hup j (mem_allRegs j)] at h
    contradiction

/-- Settles O55: the scan of the keys finds none. -/
theorem keyWaitBlocksWithoutKey : Obligations.KeyWaitBlocksWithoutKey := fun x _ h => exec_ldVxK_blocked x h

theorem exists_bit_of_ne_zero {k : BitVec 16} (h : k ≠ 0) : ∃ j : Fin 16, k.getLsbD j.val = true := by
  by_contra hno
  push Not at hno
  exact h (BitVec.eq_of_getLsbD_eq fun i hi => by simpa using hno ⟨i, hi⟩)

/-- Settles O26: `TICK` and `KEYS` leave `Fx0A` at pc, and whether it completes depends on the key flags alone. -/
theorem waitingLastsUntilKeyIsDown : Obligations.WaitingLastsUntilKeyIsDown := by
  rintro s ⟨x, hat, hkey⟩ hf
  refine ⟨fun hc => ?exec, fun rest hc => ?tick, fun k hk hc => ?keys⟩
  case exec =>
    rw [step_of_commands_nil hc, execCommand_of_atPc hf hat]
    exact exec_ldVxK_blocked x fun j => by simp [State.keyDown, hkey]
  case tick =>
    refine ⟨cmdTick (s.setCommands rest), step_of_commands_tick hc, ?_⟩
    rw [(cmdTick_eq _).1]
    exact ⟨x, hat, hkey⟩
  case keys =>
    obtain ⟨j, hj⟩ := exists_bit_of_ne_zero hk
    obtain ⟨v, hv⟩ := exec_ldVxK_completes (s := (s.setCommands []).setKEY k) x hj
    have hexec : step ((s.setCommands []).setKEY k) = .next (((s.setCommands []).setKEY k).setV x v).advance := by
      rw [step_of_commands_nil rfl, execCommand_of_atPc (s := (s.setCommands []).setKEY k) hf hat, hv]
    exact ⟨_, _, step_of_commands_keys hc, hexec, rfl⟩

/-! ### The random draw (R36, R161) -/

/-- Settles O46: the register written is `nn` and the byte of this draw, bit by bit. -/
theorem randomIsMasked : Obligations.RandomIsMasked := by
  intro x nn s
  have hbit : ∀ k, ((s.countDraw.setV x (nn &&& s.rnd)).getV x).getLsbD k
      = (nn.getLsbD k && (Config.rnd s.draws).getLsbD k) := by
    intro k
    rw [State.getV_setV_same, BitVec.getLsbD_and]
    rfl
  refine ⟨(s.countDraw.setV x (nn &&& s.rnd)).advance, rfl, rfl, hbit, fun k hk => ?_, fun r hr => ?_, rfl, rfl, fun _ => rfl⟩
  · exact (hbit k).trans (by rw [hk, Bool.false_and])
  · exact State.getV_setV_ne s.countDraw _ hr

end Sys2Proof.Machine
end

section
/-! SUPPORT. What no instruction reads: two states that differ only in the framebuffer, the fault latch and the status
fields, run through the same instruction, differ only there, but for the display instructions. -/

namespace Sys2Proof.Machine

/-- The state `s` with those elements of `u` that no instruction but `Dxyn` reads. -/
def State.withUnread (s u : State) : State :=
  { s with
    FB := u.FB, fault := u.fault, faultInfo := u.faultInfo
    diagSeen := u.diagSeen, diagEvents := u.diagEvents, loadStatus := u.loadStatus }

/-- The state `s` with another latch and other status fields. -/
def State.withStatus (s : State) (f : FaultCause) (fi : Option FaultInfo) (d : Bool) (ev : List DiagEvent)
    (l : Option LoadStatus) : State :=
  { s with fault := f, faultInfo := fi, diagSeen := d, diagEvents := ev, loadStatus := l }

/-! ### The operations made of several writes do not look at the unread elements -/

theorem State.writeBytes_withUnread (s u : State) (a : Nat) (vs : List Byte) :
    (s.withUnread u).writeBytes a vs = (s.writeBytes a vs).withUnread u := by
  induction vs generalizing s a with
  | nil => rfl
  | cons v vs ih => exact ih (s.writeByte a v) (a + 1)

theorem State.loadRegs_withUnread (s u : State) (a : Nat) (ks : List Reg) :
    (s.withUnread u).loadRegs a ks = (s.loadRegs a ks).withUnread u := by
  induction ks generalizing s with
  | nil => rfl
  | cons k ks ih => exact ih (s.setV k (s.readByte (a + k.val)))

theorem State.writeFlagged_withUnread (s u : State) (x : Reg) (flag : Byte) (op : State → Byte)
    (hop : ∀ r : State, op (r.withUnread u) = op r) :
    (s.withUnread u).writeFlagged x flag op = (s.writeFlagged x flag op).withUnread u := by
  have hp : (s.withUnread u).params = s.params := rfl
  have h1 := hop s
  have h2 : op ((s.withUnread u).setV VF flag) = op (s.setV VF flag) := hop (s.setV VF flag)
  unfold State.writeFlagged
  rw [hp, h1, h2]
  split <;> rfl

/-- The sprite is read from memory, and drawn on the framebuffer alone. -/
theorem State.spriteCanvas_withUnread (s u : State) (x y : Reg) (n : Fin 16) :
    (s.withUnread u).spriteCanvas x y n = (s.setFB u.FB).spriteCanvas x y n := by
  have hrows := State.spriteRows_congr (s := s.withUnread u) (t := s.setFB u.FB) rfl rfl s.I.toNat n.val
  exact congrArg (drawRows { fb := u.FB, hit := false } (s.getV x) (s.getV y) 0) hrows

/-! ### Instructions -/

/-- How the next state of an instruction depends on the unread elements, for all their values `u` at once: they are kept and
the rest does not depend on them; or the instruction takes the same fault; or it is `00E0`; or it is `Dxyn`, which draws on
the framebuffer and writes the collision to VF. -/
theorem exec_withUnread (i : Instr) (s : State) :
    (∃ t, exec i s = .next t ∧ ∀ u, exec i (s.withUnread u) = .next (t.withUnread u))
    ∨ (∃ c d, ∀ u, exec i (s.withUnread u) = .next ((s.withUnread u).raise c (some (encode i)) d))
    ∨ i = .cls
    ∨ ∃ x y n, i = .drw x y n ∧ ∀ u, exec i (s.withUnread u) = .next
        (((s.withUnread u).setFB ((s.setFB u.FB).spriteCanvas x y n).fb).setV VF
          (flagByte ((s.setFB u.FB).spriteCanvas x y n).hit)).advance := by
  cases i with
  | cls => exact .inr (.inr (.inl rfl))
  | drw x y n =>
    by_cases h : inRange s.I.toNat n.val = true
    · refine .inr (.inr (.inr ⟨x, y, n, rfl, fun u => (if_pos h).trans ?_⟩))
      rw [State.spriteCanvas_withUnread]
    · exact .inr (.inl ⟨_, .access s.I.toNat n.val, fun _ => if_neg h⟩)
  | ret =>
    by_cases h : 0 < s.sp.val
    · exact .inl ⟨_, dif_pos h, fun _ => dif_pos h⟩
    · exact .inr (.inl ⟨_, _, fun _ => dif_neg h⟩)
  | call nnn =>
    by_cases h : s.sp.val < 16
    · exact .inl ⟨_, dif_pos h, fun _ => dif_pos h⟩
    · exact .inr (.inl ⟨_, _, fun _ => dif_neg h⟩)
  | skp x =>
    cases h : keyIndex (s.getV x) with
    | some k => exact .inl ⟨_, exec_skp_of_key h, fun _ => exec_skp_of_key h⟩
    | none => exact .inr (.inl ⟨_, .key (s.getV x), fun _ => exec_skp_of_no_key h⟩)
  | sknp x =>
    cases h : keyIndex (s.getV x) with
    | some k => exact .inl ⟨_, exec_sknp_of_key h, fun _ => exec_sknp_of_key h⟩
    | none => exact .inr (.inl ⟨_, .key (s.getV x), fun _ => exec_sknp_of_no_key h⟩)
  | ldVxK x =>
    have hscan : ∀ u, (s.withUnread u).lastKeyDown none allRegs = s.lastKeyDown none allRegs := fun u =>
      State.lastKeyDown_congr rfl none allRegs
    cases h : s.lastKeyDown none allRegs with
    | some k => exact .inl ⟨_, exec_ldVxK_of_found h, fun u => exec_ldVxK_of_found ((hscan u).trans h)⟩
    | none => exact .inl ⟨_, exec_ldVxK_of_none_found h, fun u => exec_ldVxK_of_none_found ((hscan u).trans h)⟩
  | ldB x =>
    by_cases h : inRange s.I.toNat 3 = true
    · exact .inl ⟨_, if_pos h, fun u => (if_pos h).trans (by rw [State.writeBytes_withUnread]; rfl)⟩
    · exact .inr (.inl ⟨_, .access s.I.toNat 3, fun _ => if_neg h⟩)
  | store x =>
    by_cases h : inRange s.I.toNat (x.val + 1) = true
    · exact .inl ⟨_, if_pos h, fun u => (if_pos h).trans (by rw [State.writeBytes_withUnread]; rfl)⟩
    · exact .inr (.inl ⟨_, .access s.I.toNat (x.val + 1), fun _ => if_neg h⟩)
  | load x =>
    by_cases h : inRange s.I.toNat (x.val + 1) = true
    · exact .inl ⟨_, if_pos h, fun u => (if_pos h).trans (by rw [State.loadRegs_withUnread]; rfl)⟩
    · exact .inr (.inl ⟨_, .access s.I.toNat (x.val + 1), fun _ => if_neg h⟩)
  | addReg | subReg | shr | subn | shl =>
    refine .inl ⟨_, rfl, fun u => ?_⟩
    simp only [exec, execAddReg, execSubReg, execShr, execSubn, execShl]
    rw [State.writeFlagged_withUnread]
    · rfl
    · exact fun _ => rfl
  | _ => exact .inl ⟨_, rfl, fun _ => rfl⟩

/-- Settles O27. `Dxyn` draws the same in both runs, since they have the same framebuffer. -/
theorem instructionsCannotSeeStatus : Obligations.InstructionsCannotSeeStatus := by
  intro i s f fi d ev l
  obtain ⟨t, -, h⟩ | ⟨c, e, h⟩ | rfl | ⟨x, y, n, rfl, h⟩ := exec_withUnread i s
  · exact ⟨_, _, h s, h (s.withStatus f fi d ev l), rfl⟩
  · exact ⟨_, _, h s, h (s.withStatus f fi d ev l), rfl⟩
  · exact ⟨_, _, rfl, rfl, rfl⟩
  · exact ⟨_, _, h s, h (s.withStatus f fi d ev l), rfl⟩

/-- Settles O28: the two draws differ in the framebuffer and in the collision, which is written to VF; no other instruction
reads the framebuffer. -/
theorem framebufferReachesOnlyVF : Obligations.FramebufferReachesOnlyVF := by
  intro i s fb
  obtain ⟨t, -, h⟩ | ⟨c, e, h⟩ | rfl | ⟨x, y, n, rfl, h⟩ := exec_withUnread i s
  · exact ⟨_, _, h s, h (s.setFB fb), rfl, fun _ _ => rfl, fun _ => rfl⟩
  · exact ⟨_, _, h s, h (s.setFB fb), rfl, fun _ _ => rfl, fun _ => rfl⟩
  · exact ⟨_, _, rfl, rfl, rfl, fun _ _ => rfl, fun _ => rfl⟩
  · refine ⟨_, _, h s, h (s.setFB fb), rfl, fun r hr => ?_, fun hne => absurd rfl (hne x y n)⟩
    exact (State.getV_setV_ne _ _ hr).trans (State.getV_setV_ne _ _ hr).symm

end Sys2Proof.Machine
end

section
/-! SUPPORT. The instructions that access memory at `I`, on either side of their range check, by the true sum (R68). -/

namespace Sys2Proof.Machine

variable {s : State} {x y : Reg} {n : Fin 16}

/-! ### The access is in range -/

theorem exec_drw_of_le (h : n.val = 0 ∨ s.I.toNat + n.val - 1 ≤ 4095) :
    exec (.drw x y n) s = .next ((s.setFB (s.spriteCanvas x y n).fb).setV VF (flagByte (s.spriteCanvas x y n).hit)).advance :=
  if_pos ((inRange_iff _ _).mpr h)

theorem exec_ldB_of_le (h : s.I.toNat + 2 ≤ 4095) :
    exec (.ldB x) s = .next (s.writeBytes s.I.toNat (bcdDigits (s.getV x))).advance :=
  if_pos ((inRange_iff _ _).mpr (.inr h))

theorem exec_store_of_le (h : s.I.toNat + x.val ≤ 4095) :
    exec (.store x) s = .next (s.writeBytes s.I.toNat (s.regBytes x)).advance :=
  if_pos ((inRange_iff _ _).mpr (.inr h))

theorem exec_load_of_le (h : s.I.toNat + x.val ≤ 4095) :
    exec (.load x) s = .next (s.loadRegs s.I.toNat (regsUpTo x)).advance :=
  if_pos ((inRange_iff _ _).mpr (.inr h))

/-! ### The access is out of range -/

theorem not_inRange {first count : Nat} (hc : 0 < count) (h : 4095 < first + count - 1) : ¬ inRange first count = true := by
  rw [inRange_iff]
  omega

theorem exec_drw_of_gt (hn : 0 < n.val) (h : 4095 < s.I.toNat + n.val - 1) :
    exec (.drw x y n) s = .next (s.raise .memoryOutOfRange (some (encode (.drw x y n))) (.access s.I.toNat n.val)) :=
  if_neg (not_inRange hn h)

theorem exec_ldB_of_gt (h : 4095 < s.I.toNat + 2) :
    exec (.ldB x) s = .next (s.raise .memoryOutOfRange (some (encode (.ldB x))) (.access s.I.toNat 3)) :=
  if_neg (not_inRange (Nat.succ_pos 2) h)

theorem exec_store_of_gt (h : 4095 < s.I.toNat + x.val) :
    exec (.store x) s = .next (s.raise .memoryOutOfRange (some (encode (.store x))) (.access s.I.toNat (x.val + 1))) :=
  if_neg (not_inRange x.val.succ_pos h)

theorem exec_load_of_gt (h : 4095 < s.I.toNat + x.val) :
    exec (.load x) s = .next (s.raise .memoryOutOfRange (some (encode (.load x))) (.access s.I.toNat (x.val + 1))) :=
  if_neg (not_inRange x.val.succ_pos h)

end Sys2Proof.Machine
end

section
/-! SUPPORT. The one check of each instruction: `exec` takes the fault of `faultOf` exactly where the check fails. -/

namespace Sys2Proof.Machine

/-- The instruction takes the fault its check raises, or passes its check and leaves the latch and `fault_info` alone. -/
def FaultsAsChecked (i : Instr) (s : State) : Prop :=
  (∃ c d, faultOf i s = some (c, d) ∧ exec i s = .next (s.raise c (some (encode i)) d))
  ∨ (faultOf i s = none ∧ ∃ t, exec i s = .next t ∧ t.fault = s.fault ∧ t.faultInfo = s.faultInfo)

/-- Instruction by instruction; those with no check need only their next state. -/
theorem exec_faultsAsChecked (i : Instr) (s : State) : FaultsAsChecked i s := by
  cases i with
  | ret =>
    by_cases h : 0 < s.sp.val
    · exact .inr ⟨if_neg h.ne', _, dif_pos h, rfl, rfl⟩
    · exact .inl ⟨_, _, if_pos (Nat.eq_zero_of_not_pos h), dif_neg h⟩
  | call nnn =>
    by_cases h : s.sp.val < 16
    · exact .inr ⟨if_neg h.ne, _, dif_pos h, rfl, rfl⟩
    · exact .inl ⟨_, _, if_pos (by omega), dif_neg h⟩
  | skp x =>
    cases h : keyIndex (s.getV x) with
    | some k => exact .inr ⟨if_neg (by rw [keyIndex_eq_some.mp h]; omega), _, exec_skp_of_key h, rfl, rfl⟩
    | none => exact .inl ⟨_, _, if_pos (keyIndex_eq_none.mp h), exec_skp_of_no_key h⟩
  | sknp x =>
    cases h : keyIndex (s.getV x) with
    | some k => exact .inr ⟨if_neg (by rw [keyIndex_eq_some.mp h]; omega), _, exec_sknp_of_key h, rfl, rfl⟩
    | none => exact .inl ⟨_, _, if_pos (keyIndex_eq_none.mp h), exec_sknp_of_no_key h⟩
  | drw x y n =>
    by_cases h : n.val > 0 ∧ s.I.toNat + n.val - 1 > 4095
    · exact .inl ⟨_, _, if_pos h, exec_drw_of_gt h.1 h.2⟩
    · exact .inr ⟨if_neg h, _, exec_drw_of_le (by omega), rfl, rfl⟩
  | ldB x =>
    by_cases h : s.I.toNat + 2 > 4095
    · exact .inl ⟨_, _, if_pos h, exec_ldB_of_gt h⟩
    · exact .inr ⟨if_neg h, _, exec_ldB_of_le (not_lt.mp h), by simp, by simp⟩
  | store x =>
    by_cases h : s.I.toNat + x.val > 4095
    · exact .inl ⟨_, _, if_pos h, exec_store_of_gt h⟩
    · exact .inr ⟨if_neg h, _, exec_store_of_le (not_lt.mp h), by simp, by simp⟩
  | load x =>
    by_cases h : s.I.toNat + x.val > 4095
    · exact .inl ⟨_, _, if_pos h, exec_load_of_gt h⟩
    · exact .inr ⟨if_neg h, _, exec_load_of_le (not_lt.mp h), by simp, by simp⟩
  | ldVxK x =>
    cases h : s.lastKeyDown none allRegs with
    | some k => exact .inr ⟨rfl, _, exec_ldVxK_of_found h, rfl, rfl⟩
    | none => exact .inr ⟨rfl, _, exec_ldVxK_of_none_found h, rfl, rfl⟩
  | addReg | subReg | shr | subn | shl => exact .inr ⟨rfl, _, rfl, by simp, by simp⟩
  | _ => exact .inr ⟨rfl, _, rfl, rfl, rfl⟩

/-- Settles O24: either side of an instruction's check answers what the statement asks of it. -/
theorem faultsExactlyWhenCheckFails : Obligations.FaultsExactlyWhenCheckFails := by
  intro i s
  obtain ⟨c, d, hfault, hexec⟩ | ⟨hnone, hkeep⟩ := exec_faultsAsChecked i s
  · refine ⟨fun c' d' h => ?_, fun h => absurd (hfault.symm.trans h) nofun⟩
    obtain ⟨rfl, rfl⟩ : c = c' ∧ d = d' := by simpa using hfault.symm.trans h
    exact hexec
  · exact ⟨fun c d h => absurd (hnone.symm.trans h) nofun, fun _ => hkeep⟩

end Sys2Proof.Machine
end

section
/-! SUPPORT. The picture `Dxyn` leaves, pixel by pixel: the places of the sprite's bits, and everywhere else (R121). -/

namespace Sys2Proof.Machine

/-- At the place of bit `7 - col` no other bit of the sprite row has its place, so that bit alone decides. -/
theorem any_bit_at_targetCol (b x : Byte) {col : Nat} (hcol : col < 8) :
    ((List.range 8).any fun k => b.getLsbD (7 - k) && decide (targetCol x col = targetCol x k)) = b.getLsbD (7 - col) := by
  rw [Bool.eq_iff_iff, List.any_eq_true]
  constructor
  · rintro ⟨k, hk, hbit⟩
    obtain ⟨hone, hplace⟩ : b.getLsbD (7 - k) = true ∧ targetCol x col = targetCol x k := by simpa using hbit
    have hk8 : k < 8 := List.mem_range.mp hk
    rwa [targetCol_injective (by omega) (by omega) hplace]
  · exact fun hone => ⟨col, List.mem_range.mpr hcol, by simpa using hone⟩

section
variable (s : State) (x y : Reg) (n : Fin 16)

/-- In the framebuffer row of sprite row `row` the columns under a bit that is 1 toggle. -/
theorem State.spriteCanvas_pixel_row {row : Nat} (hrow : row < n.val) (c : Fin 64) :
    fbGet (s.spriteCanvas x y n).fb (targetRow (s.getV y) row) c
      = (s.pixel (targetRow (s.getV y) row) c
        ^^ (List.range 8).any fun k => (s.readByte (s.I.toNat + row)).getLsbD (7 - k) && decide (c = targetCol (s.getV x) k)) := by
  have hlen : (s.spriteRows s.I.toNat n.val).length = n.val := s.spriteRows_length _ _
  have h := drawRows_pixel (s.getV x) (s.getV y) (s.spriteRows s.I.toNat n.val) 0 ⟨s.FB, false⟩ (by omega) row (by omega) c
  rwa [Nat.zero_add, s.spriteRows_getD _ _ _ hrow] at h

theorem State.spriteCanvas_pixel_bit {row col : Nat} (hrow : row < n.val) (hcol : col < 8) :
    fbGet (s.spriteCanvas x y n).fb (targetRow (s.getV y) row) (targetCol (s.getV x) col)
      = (s.pixel (targetRow (s.getV y) row) (targetCol (s.getV x) col)
        ^^ (s.readByte (s.I.toNat + row)).getLsbD (7 - col)) := by
  rw [s.spriteCanvas_pixel_row x y n hrow, any_bit_at_targetCol _ _ hcol]

/-- A pixel that is no sprite bit's place is in no sprite row's framebuffer row, or between the columns of one. -/
theorem State.spriteCanvas_pixel_other {r : Fin 32} {c : Fin 64}
    (h : ∀ row col, row < n.val → col < 8 → ¬ (r = targetRow (s.getV y) row ∧ c = targetCol (s.getV x) col)) :
    fbGet (s.spriteCanvas x y n).fb r c = s.pixel r c := by
  by_cases hr : ∃ row < n.val, r = targetRow (s.getV y) row
  · obtain ⟨row, hrow, rfl⟩ := hr
    have hnone : ∀ col < 8, c ≠ targetCol (s.getV x) col := fun col hcol hc => h row col hrow hcol ⟨rfl, hc⟩
    rw [s.spriteCanvas_pixel_row x y n hrow, List.any_eq_false.mpr, Bool.xor_false]
    intro k hk
    simp [hnone k (List.mem_range.mp hk)]
  · refine drawRows_pixel_other _ _ _ 0 _ _ _ fun j hj hrj => hr ⟨j, ?_, ?_⟩
    · rwa [s.spriteRows_length] at hj
    · rw [← hrj, Nat.zero_add]

end

/-- Settles O30: the statement's sums are the values of `targetRow` and `targetCol`. -/
theorem drawTogglesSpritePixels : Obligations.DrawTogglesSpritePixels := by
  intro x y n s h
  refine ⟨_, exec_drw_of_le h, fun row col r c hrow hcol hr hc => ?_, fun r c hother => ?_, rfl, rfl,
    fun r hr => State.getV_setV_ne _ _ hr, fun _ => rfl⟩
  · obtain rfl : r = targetRow (s.getV y) row := Fin.ext hr
    obtain rfl : c = targetCol (s.getV x) col := Fin.ext hc
    exact s.spriteCanvas_pixel_bit x y n hrow hcol
  · exact s.spriteCanvas_pixel_other x y n fun row col hrow hcol ⟨hr, hc⟩ =>
      hother row col hrow hcol ⟨congrArg Fin.val hr, congrArg Fin.val hc⟩

end Sys2Proof.Machine
end

section
/-! SUPPORT. `Fx33`, `Fx55` and `Fx65`: what the written block reads as, and what the three leave unchanged (R173 to R175). -/

namespace Sys2Proof.Machine

/-- A block write and the advance change memory and pc alone. -/
theorem State.advance_writeBytes_eq (s : State) (a : Nat) (vs : List Byte) :
    (s.writeBytes a vs).advance
      = { s with mem := (s.writeBytes a vs).advance.mem, pc := (s.writeBytes a vs).advance.pc } := by
  rw [State.writeBytes_eq]
  rfl

/-- Outside the block a byte reads as before. -/
theorem State.readByte_writeBytes_outside (s : State) (a : Nat) (vs : List Byte) {b : Nat} (h : b < a ∨ a + vs.length ≤ b) :
    (s.writeBytes a vs).readByte b = s.readByte b := by
  rw [State.readByte_writeBytes, if_neg (by omega)]

/-- Inside the block, when it ends within memory, byte `k` of it is read. -/
theorem State.readByte_writeBytes_inside (s : State) (a : Nat) (vs : List Byte) {k : Nat} (hk : k < vs.length)
    (h : a + k ≤ 4095) : (s.writeBytes a vs).readByte (a + k) = vs.getD k 0 := by
  rw [State.readByte_writeBytes, if_pos (by omega), Nat.add_sub_cancel_left]

theorem bcdDigits_length (v : Byte) : (bcdDigits v).length = 3 := rfl

/-- The three digits fit their bytes. -/
theorem bcdDigits_toNat (v : Byte) : (bcdDigits v).map BitVec.toNat = [v.toNat / 100, v.toNat / 10 % 10, v.toNat % 10] := by
  have hv := v.isLt
  simp (disch := omega) only [bcdDigits, List.map_cons, List.map_nil, BitVec.toNat_ofNat, Nat.mod_eq_of_lt]

/-- Settles O48: each of the three bytes is a digit. -/
theorem bcdStoresThreeDigits : Obligations.BcdStoresThreeDigits := by
  intro x s h
  have hdigit : ∀ k < 3, ((s.writeBytes s.I.toNat (bcdDigits (s.getV x))).advance.readByte (s.I.toNat + k)).toNat
      = ((bcdDigits (s.getV x)).map BitVec.toNat).getD k 0 := by
    intro k hk
    rw [show (0 : Nat) = BitVec.toNat (0 : Byte) from rfl, List.getD_map]
    exact congrArg BitVec.toNat (s.readByte_writeBytes_inside _ _ hk (by omega))
  rw [bcdDigits_toNat] at hdigit
  exact ⟨_, exec_ldB_of_le h, hdigit 0 (by decide), hdigit 1 (by decide), hdigit 2 (by decide),
    fun a ha => s.readByte_writeBytes_outside _ _ (by rw [bcdDigits_length]; omega), by simp, s.advance_writeBytes_eq _ _⟩

/-- Settles O49: byte `k` of the block is `V[k]`. -/
theorem storeWritesRegisterBlock : Obligations.StoreWritesRegisterBlock := by
  intro x s h
  have hlen := s.regBytes_length x
  refine ⟨_, exec_store_of_le h, fun k hk => ?_, fun a ha => s.readByte_writeBytes_outside _ _ (by omega), by simp,
    s.advance_writeBytes_eq _ _⟩
  have hkx : k.val ≤ x.val := hk
  rw [← s.regBytes_getD x k hk]
  exact s.readByte_writeBytes_inside _ _ (by omega) (by omega)

/-- Settles O50: the registers loaded are those up to `V[x]`. -/
theorem loadReadsRegisterBlock : Obligations.LoadReadsRegisterBlock := by
  intro x s h
  refine ⟨_, exec_load_of_le h, fun k hk => ?_, by simp, ?_, fun r hr => ?_, fun a => ?_⟩
  · exact (s.getV_loadRegs _ _ k).trans (if_pos ((mem_regsUpTo x k).mpr hk))
  · rw [State.loadRegs_eq]
    rfl
  · have hr' : ¬ r ≤ x := by simpa using hr
    exact (s.getV_loadRegs _ _ r).trans (if_neg (mt (mem_regsUpTo x r).mp hr'))
  · exact State.readByte_congr (by simp) (by simp) a

/-- Settles O51, from what the store wrote and what the load reads. -/
theorem storeThenLoadGivesBack : Obligations.StoreThenLoadGivesBack := by
  intro x s V h
  obtain ⟨t, hstore, hwritten, -, -, hframe⟩ := storeWritesRegisterBlock x s h
  have hI : t.I = s.I := by rw [hframe]
  obtain ⟨u, hload, hread, -, -, habove, -⟩ := loadReadsRegisterBlock x { t with V := V } (by rwa [hI])
  refine ⟨t, u, hstore, hload, fun k hk => ?_, fun k hk => habove k (by simpa using hk)⟩
  calc u.getV k = t.readByte (t.I.toNat + k.val) := hread k hk
    _ = t.readByte (s.I.toNat + k.val) := by rw [hI]
    _ = s.getV k := hwritten k hk

/-- Settles O52: the two bytes at the new pc are in the block the store wrote. -/
theorem nextFetchSeesStoredBytes : Obligations.NextFetchSeesStoredBytes := by
  intro x k s hk h hkx hpc
  obtain ⟨t, hstore, hwritten, -, htpc, -⟩ := storeWritesRegisterBlock x s h
  refine ⟨t, hstore, ?_⟩
  have hat : t.pc.toNat = s.I.toNat + k.val := by rw [htpc, hpc]
  have hhigh : t.readByte t.pc.toNat = s.getV k := by
    rw [hat]
    exact hwritten k (Nat.le_of_succ_le hkx)
  have hlow : t.readByte (t.pc.toNat + 1) = s.getV ⟨k.val + 1, hk⟩ := by
    rw [hat]
    exact hwritten ⟨k.val + 1, hk⟩ hkx
  rw [State.fetchWord_eq_some (by omega), hhigh, hlow]

end Sys2Proof.Machine
end

section
/-! SUPPORT. The decoder gives back the encoded instruction (R92, R93, R95, R96): what the fields of a word of each format
are, and the round trips between words and instructions. -/

namespace Sys2Proof

/-! ### The fields of a word of each format (R93) -/

section
variable (f x y n : BitVec 4) (nn : Byte) (nnn : Addr)

@[simp] theorem fieldFam_fam_nnn : fieldFam (f ++ nnn) = f := BitVec.extractLsb'_append_eq_left

@[simp] theorem fieldNNN_fam_nnn : fieldNNN (f ++ nnn) = nnn := BitVec.extractLsb'_append_eq_right

@[simp] theorem fieldFam_fam_x_nn : fieldFam (f ++ x ++ nn) = f :=
  (BitVec.extractLsb'_append_eq_of_le (by decide)).trans BitVec.extractLsb'_append_eq_left

@[simp] theorem fieldX_fam_x_nn : fieldX (f ++ x ++ nn) = x.toFin :=
  congrArg BitVec.toFin <|
    (BitVec.extractLsb'_append_eq_of_le (by decide)).trans BitVec.extractLsb'_append_eq_right

@[simp] theorem fieldNN_fam_x_nn : fieldNN (f ++ x ++ nn) = nn := BitVec.extractLsb'_append_eq_right

@[simp] theorem fieldFam_fam_x_y_n : fieldFam (f ++ x ++ y ++ n) = f :=
  (BitVec.extractLsb'_append_eq_of_le (by decide)).trans <|
    (BitVec.extractLsb'_append_eq_of_le (by decide)).trans BitVec.extractLsb'_append_eq_left

@[simp] theorem fieldX_fam_x_y_n : fieldX (f ++ x ++ y ++ n) = x.toFin :=
  congrArg BitVec.toFin <|
    (BitVec.extractLsb'_append_eq_of_le (by decide)).trans <|
      (BitVec.extractLsb'_append_eq_of_le (by decide)).trans BitVec.extractLsb'_append_eq_right

@[simp] theorem fieldY_fam_x_y_n : fieldY (f ++ x ++ y ++ n) = y.toFin :=
  congrArg BitVec.toFin <|
    (BitVec.extractLsb'_append_eq_of_le (by decide)).trans BitVec.extractLsb'_append_eq_right

@[simp] theorem fieldN_fam_x_y_n : fieldN (f ++ x ++ y ++ n) = n.toFin :=
  congrArg BitVec.toFin BitVec.extractLsb'_append_eq_right

end

@[simp] theorem toFin_nibble (r : Fin 16) : (nibble r).toFin = r := rfl

/-! ### The round trips (R91 to R93) -/

/-- The fields of the encoding are those it was built from: the family selects the arm, the last field the sub-opcode of
families 8 and F, and the operands are read back. -/
theorem decodeWord_encode (i : Instr) : decodeWord (encode i) = .ok i := by
  cases i with
  | cls | ret => rfl
  | jp | call | ldI | jpV0 | seImm | sneImm | ldImm | addImm | rnd | drw | seReg | sneReg | skp | sknp =>
    simp [encode, decodeWord]
  | ldReg | orReg | andReg | xorReg | addReg | subReg | shr | subn | shl => simp [encode, decodeWord, decodeFamily8]
  | ldVxDT | ldVxK | ldDTVx | ldSTVx | addI | ldF | ldB | store | load => simp [encode, decodeWord, decodeFamilyF]

/-- A word is its two bytes (R66). -/
theorem wordOfBytes_highByte_lowByte (w : Word) : wordOfBytes (highByte w) (lowByte w) = w :=
  (append_fields w 0 8 8).trans BitVec.extractLsb'_eq_self

theorem decode_encodeBytes (i : Instr) : decode (encodeBytes i) = .ok (i, []) := by
  rw [encodeBytes, Machine.decode_pair_ok, wordOfBytes_highByte_lowByte, decodeWord_encode]

/-- Settles O1, at word and at byte level. -/
theorem decodeEncodeRoundTrip : Obligations.DecodeEncodeRoundTrip :=
  fun i => ⟨decodeWord_encode i, decode_encodeBytes i⟩

/-- Settles O2: each arm of the decoding procedure knows the fields its pattern fixes. -/
theorem encodeDecodeRoundTrip : Obligations.EncodeDecodeRoundTrip := fun _ _ => encode_of_decodeWord

/-- Settles O5: each sample is the encoding of its instruction. -/
theorem sampleWordsDecode : Obligations.SampleWordsDecode :=
  ⟨decodeWord_encode .cls, decodeWord_encode (.drw 1 2 0xF), decodeWord_encode .ret, decodeWord_encode (.jp 0xABC),
    decodeWord_encode (.jpV0 0x234), decodeWord_encode (.seImm 3 0x2A), decodeWord_encode (.sneReg 1 2),
    decodeWord_encode (.sknp 4), decodeWord_encode (.addImm 1 0x05), decodeWord_encode (.subn 0xF 1),
    decodeWord_encode (.rnd 3 0x0F), decodeWord_encode (.ldI 0x2F0), decodeWord_encode (.ldB 4),
    decodeWord_encode (.load 2), decodeWord_encode (.ldVxDT 5), decodeWord_encode (.ldVxK 6)⟩

end Sys2Proof
end

section
/-! SUPPORT. The decoding procedure and the opcode map (R95 to R97): a word selects a row by the fields its mask keeps. -/

namespace Sys2Proof

/-! ### The row of an instruction -/

/-- The family `EncodingRow` as one statement. -/
theorem encodingRow (i : Instr) : Laws.EncodingRow.Statement i := by
  open Laws.EncodingRow in
  cases i with
  | cls => exact cls
  | ret => exact ret
  | jp => exact jp _
  | call => exact call _
  | seImm => exact seImm _ _
  | sneImm => exact sneImm _ _
  | seReg => exact seReg _ _
  | ldImm => exact ldImm _ _
  | addImm => exact addImm _ _
  | ldReg => exact ldReg _ _
  | orReg => exact orReg _ _
  | andReg => exact andReg _ _
  | xorReg => exact xorReg _ _
  | addReg => exact addReg _ _
  | subReg => exact subReg _ _
  | shr => exact shr _ _
  | subn => exact subn _ _
  | shl => exact shl _ _
  | sneReg => exact sneReg _ _
  | ldI => exact ldI _
  | jpV0 => exact jpV0 _
  | rnd => exact rnd _ _
  | drw => exact drw _ _ _
  | skp => exact skp _
  | sknp => exact sknp _
  | ldVxDT => exact ldVxDT _
  | ldVxK => exact ldVxK _
  | ldDTVx => exact ldDTVx _
  | ldSTVx => exact ldSTVx _
  | addI => exact addI _
  | ldF => exact ldF _
  | ldB => exact ldB _
  | store => exact store _
  | load => exact load _

/-- The row of a decoded instruction is in the map, and the word selects it. -/
theorem row_of_decodeWord {w : Word} {i : Instr} (h : decodeWord w = .ok i) :
    i.row ∈ opcodeTable ∧ i.row.selects w = true := by
  obtain ⟨hmem, hsel⟩ := encodingRow i
  rw [encode_of_decodeWord h] at hsel
  exact ⟨hmem, hsel⟩

/-- The map lists the rows of the 34 instructions, in their order; a row does not depend on the operands. -/
theorem opcodeTable_eq_map_row : opcodeTable = List.map Instr.row
    [.cls, .ret, .jp 0, .call 0, .seImm 0 0, .sneImm 0 0, .seReg 0 0, .ldImm 0 0, .addImm 0 0, .ldReg 0 0, .orReg 0 0,
      .andReg 0 0, .xorReg 0 0, .addReg 0 0, .subReg 0 0, .shr 0 0, .subn 0 0, .shl 0 0, .sneReg 0 0, .ldI 0, .jpV0 0,
      .rnd 0 0, .drw 0 0 0, .skp 0, .sknp 0, .ldVxDT 0, .ldVxK 0, .ldDTVx 0, .ldSTVx 0, .addI 0, .ldF 0, .ldB 0,
      .store 0, .load 0] := rfl

theorem exists_row_eq {r : Row} (h : r ∈ opcodeTable) : ∃ i : Instr, i.row = r := by
  rw [opcodeTable_eq_map_row] at h
  obtain ⟨i, -, hi⟩ := List.mem_map.mp h
  exact ⟨i, hi⟩

/-! ### What a row fixes of a word -/

section
variable {w bits mask : Word} {m : String}

theorem eq_bits_of_selects (h : Row.selects ⟨m, bits, 0xFFFF⟩ w = true) : w = bits :=
  BitVec.and_allOnes.symm.trans (beq_iff_eq.mp h)

/-- A word that selects a row agrees with it in every field its mask keeps whole. -/
theorem extractLsb'_of_selects (h : Row.selects ⟨m, bits, mask⟩ w = true) {k n : Nat}
    (hmask : mask.extractLsb' k n = BitVec.allOnes n) : w.extractLsb' k n = bits.extractLsb' k n := by
  have hbits : w &&& mask = bits := beq_iff_eq.mp h
  rw [← hbits, BitVec.extractLsb'_and, hmask, BitVec.and_allOnes]

theorem fieldFam_of_selects (h : Row.selects ⟨m, bits, mask⟩ w = true) (hmask : fieldFam mask = 0xF) :
    fieldFam w = fieldFam bits :=
  extractLsb'_of_selects h hmask

theorem fieldN_of_selects (h : Row.selects ⟨m, bits, mask⟩ w = true) (hmask : fieldN mask = 0xF) :
    fieldN w = fieldN bits :=
  congrArg BitVec.toFin (extractLsb'_of_selects h (BitVec.toFin_inj.mp hmask))

theorem fieldNN_of_selects (h : Row.selects ⟨m, bits, mask⟩ w = true) (hmask : fieldNN mask = 0xFF) :
    fieldNN w = fieldNN bits :=
  extractLsb'_of_selects h hmask

end

/-- A word that selects an instruction's row decodes to an instruction of that row: the fields the mask keeps are those the
decoding procedure looks at. -/
theorem decodeWord_of_selects (i : Instr) {w : Word} (h : i.row.selects w = true) :
    ∃ j, decodeWord w = .ok j ∧ j.row = i.row := by
  cases i with
  | cls | ret =>
    rw [eq_bits_of_selects h]
    exact ⟨_, rfl, rfl⟩
  | jp | call | seImm | sneImm | ldImm | addImm | ldI | jpV0 | rnd | drw =>
    rw [decodeWord, fieldFam_of_selects h rfl]
    exact ⟨_, rfl, rfl⟩
  | seReg | sneReg =>
    rw [decodeWord, fieldFam_of_selects h rfl, fieldN_of_selects h rfl]
    exact ⟨_, rfl, rfl⟩
  | ldReg | orReg | andReg | xorReg | addReg | subReg | shr | subn | shl =>
    rw [decodeWord, decodeFamily8, fieldFam_of_selects h rfl, fieldN_of_selects h rfl]
    exact ⟨_, rfl, rfl⟩
  | skp | sknp =>
    rw [decodeWord, fieldFam_of_selects h rfl, fieldNN_of_selects h rfl]
    exact ⟨_, rfl, rfl⟩
  | ldVxDT | ldVxK | ldDTVx | ldSTVx | addI | ldF | ldB | store | load =>
    rw [decodeWord, decodeFamilyF, fieldFam_of_selects h rfl, fieldNN_of_selects h rfl]
    exact ⟨_, rfl, rfl⟩

/-- Settles O3, the first clause through the encoding, the second through the fields the row's mask keeps. -/
theorem decodeFollowsOpcodeMap : Obligations.DecodeFollowsOpcodeMap := by
  refine fun w => ⟨fun i => row_of_decodeWord, fun r hr hsel => ?_⟩
  obtain ⟨i, rfl⟩ := exists_row_eq hr
  exact decodeWord_of_selects i hsel

end Sys2Proof
end

section
/-! SUPPORT. The words that are no instruction (R97 to R99): the decoder's only error, and where each family answers it. -/

namespace Sys2Proof

variable {w : Word}

/-! ### The fields of a word as numbers (R92) -/

theorem fieldFam_toNat (w : Word) : (fieldFam w).toNat = w.toNat / 4096 := by
  have := w.isLt
  rw [fieldFam, BitVec.extractLsb'_toNat, Nat.shiftRight_eq_div_pow]
  omega

theorem fieldN_val (w : Word) : (fieldN w).val = w.toNat % 16 := rfl

theorem fieldNN_toNat (w : Word) : (fieldNN w).toNat = w.toNat % 256 := rfl

theorem fieldN_eq_zero_iff : fieldN w = 0 ↔ w.toNat % 16 = 0 := by rw [Fin.ext_iff, fieldN_val]; rfl

/-! ### The error, family by family (R98, R99) -/

theorem eq_unimplemented_of_decodeFamily8 {e : DecodeError} (h : decodeFamily8 w = .error e) : e = .unimplemented w := by
  unfold decodeFamily8 at h
  split at h <;> cases h
  rfl

theorem eq_unimplemented_of_decodeFamilyF {e : DecodeError} (h : decodeFamilyF w = .error e) : e = .unimplemented w := by
  unfold decodeFamilyF at h
  split at h <;> cases h
  rfl

/-- The decoder has no other error. -/
theorem eq_unimplemented_of_decodeWord {e : DecodeError} (h : decodeWord w = .error e) : e = .unimplemented w := by
  unfold decodeWord at h
  split at h
  case h_1 | h_15 =>
    split at h
    · cases h
    · split at h <;> cases h
      rfl
  case h_6 | h_10 =>
    split at h <;> cases h
    rfl
  case h_9 => exact eq_unimplemented_of_decodeFamily8 h
  case h_16 => exact eq_unimplemented_of_decodeFamilyF h
  all_goals cases h

theorem decodeFamily8_unimplemented_iff :
    decodeFamily8 w = .error (.unimplemented w) ↔ w.toNat % 16 ∈ [8, 9, 0xA, 0xB, 0xC, 0xD, 0xF] := by
  rw [← fieldN_val]
  unfold decodeFamily8
  split
  case h_10 =>
    have hlt := (fieldN w).isLt
    simp only [List.mem_cons, List.not_mem_nil, true_iff]
    grind
  all_goals simp [*]

theorem decodeFamilyF_unimplemented_iff :
    decodeFamilyF w = .error (.unimplemented w)
      ↔ w.toNat % 256 ∉ [0x07, 0x0A, 0x15, 0x18, 0x1E, 0x29, 0x33, 0x55, 0x65] := by
  rw [← fieldNN_toNat]
  unfold decodeFamilyF
  split
  case h_10 => simp_all
  all_goals simp [*]

/-- Settles O4: each of the six families with a sub-opcode or fixed digits answers its own disjunct, the others none. -/
theorem unimplementedSpaceByFamily : Obligations.UnimplementedSpaceByFamily := by
  refine fun w => ⟨?_, fun e => eq_unimplemented_of_decodeWord⟩
  rw [← fieldFam_toNat]
  unfold decodeWord
  split
  case h_1 hf => simp [hf, ite_eq_iff, BitVec.toNat_eq]
  case h_6 hf | h_10 hf => simp [hf, fieldN_eq_zero_iff]
  case h_9 hf => simp [hf, decodeFamily8_unimplemented_iff]
  case h_15 hf => simp [hf, ite_eq_iff, BitVec.toNat_eq, fieldNN_toNat]
  case h_16 =>
    have hlt := (fieldFam w).isLt
    have hf : (fieldFam w).toNat = 15 := by grind
    simp [hf, decodeFamilyF_unimplemented_iff]
  case h_2 hf | h_3 hf | h_4 hf | h_5 hf | h_7 hf | h_8 hf | h_11 hf | h_12 hf | h_13 hf | h_14 hf => simp [hf]

end Sys2Proof
end

section
/-! SUPPORT. The fetch of an `EXEC` (R90) and the step of a word that is no instruction (R98). -/

namespace Sys2Proof.Machine

variable {s : State}

/-- With a fault latched an `EXEC` does nothing (R196). -/
theorem execCommand_of_fault (hf : s.fault ≠ .none) : execCommand s = .next s := if_neg hf

/-- A fetch that leaves memory takes the fetch fault (R90). -/
theorem execCommand_of_fetch_out_of_range (hf : s.fault = .none) (hp : 4094 < s.pc.toNat) :
    execCommand s = .next s.raiseFetch := by
  rw [execCommand, if_pos hf, State.fetchWord_eq_none hp]

/-- With the latch clear and no instruction at pc, an `EXEC` is the `UNIMPL` step of the fetched word (R98). -/
theorem execCommand_error {e : DecodeError} (hf : s.fault = .none) (hp : s.pc.toNat ≤ 4094)
    (hd : decodeWord (wordOfBytes (s.readByte s.pc.toNat) (s.readByte (s.pc.toNat + 1))) = .error e) :
    execCommand s = execUnimplemented (wordOfBytes (s.readByte s.pc.toNat) (s.readByte (s.pc.toNat + 1))) s := by
  simp only [execCommand, hf, if_true, State.fetchWord_eq_some hp, hd]

/-- Settles O8, in the order of the `EXEC`: the latch, the bounds check, the decoding. -/
theorem execFetchesBigEndianWord : Obligations.ExecFetchesBigEndianWord := by
  intro s rest hc
  rw [step_of_commands_exec hc]
  refine ⟨fun hf => execCommand_of_fault hf, fun hf hp => ?fault, fun hf hp => ?fetch⟩
  case fault => exact execCommand_of_fetch_out_of_range hf (Nat.lt_of_succ_lt_succ hp)
  case fetch =>
    have hp' : s.pc.toNat ≤ 4094 := Nat.le_of_succ_le_succ hp
    refine ⟨_, wordOfBytes_toNat _ _, ?_⟩
    split
    · exact execCommand_ok hf hp' ‹_›
    · exact execCommand_error hf hp' ‹_›

/-- A word that selects no row of the opcode map is no instruction (R96, R98). -/
theorem decodeWord_error_of_selects_none {w : Word} (h : ∀ r ∈ opcodeTable, r.selects w = false) :
    ∃ e, decodeWord w = .error e := by
  cases hd : decodeWord w with
  | error e => exact ⟨e, rfl⟩
  | ok i =>
    obtain ⟨hmem, hsel⟩ := row_of_decodeWord hd
    exact absurd hsel (Bool.eq_false_iff.mp (h _ hmem))

/-- Settles O9: the fetched word has no instruction, since that instruction's row would be selected. -/
theorem unimplementedWordAdvances : Obligations.UnimplementedWordAdvances := by
  intro s rest op hc hf hp hop hnone
  obtain rfl : op = wordOfBytes (s.readByte s.pc.toNat) (s.readByte (s.pc.toNat + 1)) :=
    BitVec.eq_of_toNat_eq (hop.trans (wordOfBytes_toNat _ _).symm)
  obtain ⟨e, he⟩ := decodeWord_error_of_selects_none hnone
  rw [step_of_commands_exec hc]
  exact execCommand_error (s := s.setCommands rest) hf hp he

end Sys2Proof.Machine
end

section
/-! SUPPORT. `00E0`, the collision `Dxyn` reports in VF, and two draws of the same sprite (R120, R121). -/

namespace Sys2Proof.Machine

/-- Settles O29: only the framebuffer, which becomes the blank one, and pc are written. -/
theorem clearBlanksFramebuffer : Obligations.ClearBlanksFramebuffer :=
  fun _ => ⟨_, rfl, pixel_of_exec_cls rfl, rfl, rfl, fun _ => rfl⟩

theorem flagByte_eq_zero_or_one (b : Bool) : flagByte b = 0 ∨ flagByte b = 1 := by
  cases b
  · exact .inl rfl
  · exact .inr rfl

theorem flagByte_eq_one_iff (b : Bool) : flagByte b = 1 ↔ b = true := by
  cases b <;> decide

/-- The whole draw collides when the place of a sprite bit that is 1 was lit before it. -/
theorem State.spriteCanvas_hit (s : State) (x y : Reg) (n : Fin 16) :
    (s.spriteCanvas x y n).hit = true ↔ ∃ row < n.val, ∃ col < 8,
      (s.readByte (s.I.toNat + row)).getLsbD (7 - col) = true
        ∧ s.pixel (targetRow (s.getV y) row) (targetCol (s.getV x) col) = true := by
  have hlen : (s.spriteRows s.I.toNat n.val).length = n.val := s.spriteRows_length _ _
  have h := drawRows_hit (s.getV x) (s.getV y) (s.spriteRows s.I.toNat n.val) 0 ⟨s.FB, false⟩ (by omega)
  simp only [Bool.false_eq_true, false_or, hlen, Nat.zero_add] at h
  refine h.trans (exists_congr fun row => and_congr_right fun hrow => ?_)
  rw [s.spriteRows_getD _ _ _ hrow]
  rfl

/-- Settles O31: VF is the flag of the draw's collision, and the statement's sums are the values of `targetRow` and
`targetCol`. -/
theorem drawReportsCollision : Obligations.DrawReportsCollision := by
  intro x y n s h
  have hVF : (((s.setFB (s.spriteCanvas x y n).fb).setV VF (flagByte (s.spriteCanvas x y n).hit)).advance).getV VF
      = flagByte (s.spriteCanvas x y n).hit := State.getV_setV_same _ _ _
  refine ⟨_, exec_drw_of_le h, ?_, ?_⟩
  · rw [hVF]
    exact flagByte_eq_zero_or_one _
  · rw [hVF, flagByte_eq_one_iff, State.spriteCanvas_hit]
    constructor
    · rintro ⟨row, hrow, col, hcol, hone, hlit⟩
      exact ⟨row, col, _, _, hrow, hcol, rfl, rfl, hone, hlit⟩
    · rintro ⟨row, col, r, c, hrow, hcol, hr, hc, hone, hlit⟩
      obtain rfl : r = targetRow (s.getV y) row := Fin.ext hr
      obtain rfl : c = targetCol (s.getV x) col := Fin.ext hc
      exact ⟨row, hrow, col, hcol, hone, hlit⟩

/-- Settles O32. The first draw changes neither the sprite nor, with its coordinates outside VF, its place, so O30 and O31
speak of the second draw in terms of the state before the first: each bit toggles its pixel twice, and a pixel under a bit
that is 1 is lit for the second draw when it was dark for the first. -/
theorem drawTwiceRestoresFramebuffer : Obligations.DrawTwiceRestoresFramebuffer := by
  intro x y n s hx hy h
  obtain ⟨t, ht, htBit, htOther, -, htFrame, htV, htMem⟩ := drawTogglesSpritePixels x y n s h
  have hI : t.I = s.I := by rw [htFrame]
  have hByte (a : Nat) : t.readByte a = s.readByte a := htMem a
  obtain ⟨u, hu, huBit, huOther, -⟩ := drawTogglesSpritePixels x y n t (by rwa [hI])
  obtain ⟨u', hu', -, huVF⟩ := drawReportsCollision x y n t (by rwa [hI])
  obtain rfl : u = u' := by injection hu.symm.trans hu'
  simp only [hI, hByte, htV x hx, htV y hy] at huBit huOther huVF
  refine ⟨t, u, ht, hu, fun r c => ?pixel, huVF.trans ?collision⟩
  case pixel =>
    by_cases hplace : ∃ row col, row < n.val ∧ col < 8
        ∧ r.val = ((s.getV y).toNat % 32 + row) % 32 ∧ c.val = ((s.getV x).toNat % 64 + col) % 64
    · obtain ⟨row, col, hrow, hcol, hr, hc⟩ := hplace
      rw [huBit row col r c hrow hcol hr hc, htBit row col r c hrow hcol hr hc, Bool.xor_assoc, Bool.xor_self,
        Bool.xor_false]
    · have hno : ∀ row col, row < n.val → col < 8 →
          ¬(r.val = ((s.getV y).toNat % 32 + row) % 32 ∧ c.val = ((s.getV x).toNat % 64 + col) % 64) :=
        fun row col hrow hcol hrc => hplace ⟨row, col, hrow, hcol, hrc⟩
      rw [huOther r c hno, htOther r c hno]
  case collision =>
    refine exists_congr fun row => exists_congr fun col => exists_congr fun r => exists_congr fun c => ?_
    refine and_congr_right fun hrow => and_congr_right fun hcol => and_congr_right fun hr => and_congr_right fun hc =>
      and_congr_right fun hone => ?_
    rw [htBit row col r c hrow hcol hr hc, hone, Bool.xor_true, Bool.not_eq_true']

end Sys2Proof.Machine
end

section
/-! SUPPORT. The four instructions that transfer control (R130 to R133), the return after a call (R134), and the jump to
itself (R236). -/

namespace Sys2Proof.Machine

variable {s : State} {nnn : Addr}

/-! ### Jumps -/

@[simp] theorem addrWord_toNat (nnn : Addr) : (addrWord nnn).toNat = nnn.toNat :=
  BitVec.toNat_setWidth_of_le (by decide)

@[simp] theorem byteWord_toNat (v : Byte) : (byteWord v).toNat = v.toNat :=
  BitVec.toNat_setWidth_of_le (by decide)

/-- An address and a register are too small for their 16-bit sum to wrap (R133). -/
theorem addrWord_add_byteWord_toNat (nnn : Addr) (v : Byte) : (addrWord nnn + byteWord v).toNat = nnn.toNat + v.toNat := by
  have hn := nnn.isLt
  have hv := v.isLt
  rw [BitVec.toNat_add_of_lt (by rw [addrWord_toNat, byteWord_toNat]; omega), addrWord_toNat, byteWord_toNat]

/-- Settles O36: both jumps are a write of pc, and the sum of `Bnnn` does not wrap. -/
theorem jumpsSetPcAlone : Obligations.JumpsSetPcAlone := fun nnn _ =>
  ⟨⟨_, rfl, addrWord_toNat nnn, rfl, fun _ => rfl⟩, ⟨_, rfl, addrWord_add_byteWord_toNat nnn _, rfl, fun _ => rfl⟩⟩

/-- A jump to its own address answers the state it was given. -/
theorem exec_jp_self (h : nnn.toNat = s.pc.toNat) : exec (.jp nnn) s = .next s := by
  have hpc : addrWord nnn = s.pc := BitVec.eq_of_toNat_eq ((addrWord_toNat nnn).trans h)
  calc exec (.jp nnn) s = .next (s.setPc (addrWord nnn)) := rfl
    _ = .next (s.setPc s.pc) := by rw [hpc]
    _ = .next s := rfl

/-- Settles O25: the `EXEC` is the jump to itself, and a `TICK` leaves pc, memory and the latch alone. -/
theorem parkedStaysParked : Obligations.ParkedStaysParked := by
  rintro s ⟨nnn, hat, hself⟩ hf
  refine ⟨fun hc => ?exec, fun rest hc => ⟨_, step_of_commands_tick hc, ?tick⟩⟩
  case exec =>
    rw [step_of_commands_nil hc, execCommand_of_atPc hf hat]
    exact exec_jp_self hself
  case tick =>
    rw [(cmdTick_eq _).1]
    exact ⟨⟨nnn, hat, hself⟩, hf⟩

/-! ### Call and return -/

theorem exec_ret_of_pos (h : 0 < s.sp.val) : exec .ret s = .next (s.pop.setPc (s.top h + 2)) := dif_pos h

theorem exec_call_of_lt (h : s.sp.val < 16) : exec (.call nnn) s = .next ((s.push s.pc h).setPc (addrWord nnn)) := dif_pos h

/-- With `k + 1` live entries the newest is entry `k` (R27). -/
theorem State.top_eq {k : Fin 16} (hk : s.sp.val = k.val + 1) (h : 0 < s.sp.val) : s.top h = s.stack[k] := by
  simp [State.top, hk]

/-- Settles O33: the newest of `k + 1` live entries is entry `k`, and only `sp` and pc are written. -/
theorem returnResumesAfterCall : Obligations.ReturnResumesAfterCall := by
  intro s k hk
  have hpos : 0 < s.sp.val := by omega
  have hsp : s.pop.sp.val = k.val := Nat.sub_eq_of_eq_add hk
  exact ⟨_, exec_ret_of_pos hpos, hsp, congrArg (· + 2) (State.top_eq hk hpos), rfl, fun _ => rfl⟩

/-- Settles O34: the push writes the entry at `sp` alone. -/
theorem callPushesOwnAddress : Obligations.CallPushesOwnAddress := by
  intro nnn s k hk
  have hlt : s.sp.val < 16 := by omega
  have hnew : (s.push s.pc hlt).stack[k] = s.pc := by rw [State.push_stack_get, if_pos hk.symm]
  have hold (j : Fin 16) (hj : j ≠ k) : (s.push s.pc hlt).stack[j] = s.stack[j] := by
    rw [State.push_stack_get, if_neg fun h => hj (Fin.ext (h.trans hk))]
  exact ⟨_, exec_call_of_lt hlt, congrArg (· + 1) hk, hnew, hold, addrWord_toNat nnn, rfl, fun _ => rfl⟩

/-- Settles O35: O33 speaks of the return in the state after the call, and O34 says what that state holds. -/
theorem callThenReturnResumes : Obligations.CallThenReturnResumes := by
  intro nnn s hlt
  obtain ⟨t, ht, htsp, htop, hold, -, htFrame, -⟩ := callPushesOwnAddress nnn s ⟨s.sp.val, hlt⟩ rfl
  obtain ⟨u, hu, husp, hupc, huFrame, -⟩ := returnResumesAfterCall t ⟨s.sp.val, hlt⟩ htsp
  have hsp : u.sp = s.sp := Fin.ext husp
  have hstack : u.stack = t.stack := by rw [huFrame]
  refine ⟨t, u, ht, hu, hupc.trans (by rw [htop]), ?frame, fun j hj => ?entry⟩
  case frame =>
    calc u = { t with sp := u.sp, pc := u.pc } := huFrame
      _ = { s with stack := t.stack, sp := u.sp, pc := u.pc } := by rw [htFrame]
      _ = { s with stack := u.stack, pc := u.pc } := by rw [hsp, hstack]
  case entry =>
    rw [hstack]
    exact hold j fun h => hj (congrArg Fin.val h)

end Sys2Proof.Machine
end

section
/-! SUPPORT. The conditional skips: the two values of pc, and the comparisons as numbers (R140 to R145). -/

namespace Sys2Proof.Machine

/-- A skip on a condition that states `p` leaves pc 4 further when `p` holds, 2 further when not, and writes nothing else. -/
theorem State.skipIf_eq_of_iff {c : Bool} {p : Prop} [Decidable p] (s : State) (h : c = true ↔ p) :
    s.skipIf c = { s with pc := if p then s.pc + 4 else s.pc + 2 } := by
  have hpc : (s.pc + if c then 4 else 2) = if p then s.pc + 4 else s.pc + 2 := by
    by_cases hp : p
    · rw [if_pos (h.mpr hp), if_pos hp]
    · rw [if_neg (mt h.mp hp), if_neg hp]
  exact congrArg s.setPc hpc

/-! ### Comparisons with a byte (R140 to R143) -/

theorem byte_beq_iff_toNat_eq {a b : Byte} : (a == b) = true ↔ a.toNat = b.toNat :=
  beq_iff_eq.trans BitVec.toNat_inj.symm

theorem byte_bne_iff_toNat_ne {a b : Byte} : (a != b) = true ↔ a.toNat ≠ b.toNat :=
  bne_iff_ne.trans BitVec.toNat_inj.not.symm

/-- Settles O37: each of the four is a skip on one comparison of bytes, which is the comparison of their numbers. -/
theorem compareSkipsAdvanceByFourOrTwo : Obligations.CompareSkipsAdvanceByFourOrTwo := by
  intro x y nn s
  have skipEq (a b : Byte) := s.skipIf_eq_of_iff (byte_beq_iff_toNat_eq (a := a) (b := b))
  have skipNe (a b : Byte) := s.skipIf_eq_of_iff (byte_bne_iff_toNat_ne (a := a) (b := b))
  exact ⟨congrArg Host.Outcome.next (skipEq (s.getV x) nn), congrArg Host.Outcome.next (skipNe (s.getV x) nn),
    congrArg Host.Outcome.next (skipEq (s.getV x) (s.getV y)), congrArg Host.Outcome.next (skipNe (s.getV x) (s.getV y))⟩

/-! ### The flag of a named key (R144, R145) -/

/-- Settles O38: the key code names key `k`, and each of the two is a skip on that key's flag. -/
theorem keySkipsTestNamedKey : Obligations.KeySkipsTestNamedKey := by
  intro x s k hk
  have hkey : keyIndex (s.getV x) = some k := keyIndex_eq_some.mpr hk
  have hdown : s.keyDown k = true ↔ s.KEY.getLsbD k.val = true := Iff.rfl
  have hup : (!s.keyDown k) = true ↔ s.KEY.getLsbD k.val = false := iff_of_eq (Bool.not_eq_true' _)
  constructor
  · rw [exec_skp_of_key hkey, s.skipIf_eq_of_iff hdown]
  · rw [exec_sknp_of_key hkey, s.skipIf_eq_of_iff hup]

end Sys2Proof.Machine
end

section
/-! SUPPORT. Loads, additions, logic and shifts (R150 to R160): what a write of one register, or of a result and a flag,
leaves unchanged; the results and the flags as numbers; and the three ways a flag and its result can end (R163). -/

namespace Sys2Proof.Machine

variable {s : State} {i : Instr} {x : Reg} {flag : Byte} {op : State → Byte}

/-! ### Frames -/

theorem OnlyRegistersChange.mono {xs ys : List Reg} {t : State} (h : OnlyRegistersChange xs s t) (hsub : xs ⊆ ys) :
    OnlyRegistersChange ys s t := by
  obtain ⟨hfields, hregs, hmem⟩ := h
  exact ⟨hfields, fun r hr => hregs r fun hx => hr (hsub hx), hmem⟩

theorem State.advance_setV_frame (s : State) (x : Reg) (v : Byte) : OnlyRegistersChange [x] s (s.setV x v).advance :=
  ⟨rfl, fun _ hr => s.getV_setV_ne v (List.ne_of_not_mem_cons hr), fun _ => rfl⟩

/-- In either order of the two writes, a register that is neither `V[x]` nor VF is as before (R163). -/
theorem State.getV_writeFlagged_ne (s : State) (flag : Byte) (op : State → Byte) {r : Reg} (hx : r ≠ x) (hVF : r ≠ VF) :
    (s.writeFlagged x flag op).getV r = s.getV r := by
  cases h : s.params.vfOrder with
  | flagFirst => rw [State.getV_writeFlagged_flagFirst h, if_neg hx, if_neg hVF]
  | resultLast => rw [State.getV_writeFlagged_resultLast h, if_neg hVF, if_neg hx]

theorem State.advance_writeFlagged_frame (s : State) (x : Reg) (flag : Byte) (op : State → Byte) :
    OnlyRegistersChange [x, VF] s (s.writeFlagged x flag op).advance := by
  refine ⟨?fields, fun r hr => ?register, State.readByte_congr (by simp) (by simp)⟩
  case fields =>
    rw [State.writeFlagged_eq]
    rfl
  case register =>
    obtain ⟨hx, hVF⟩ : r ≠ x ∧ r ≠ VF := by simpa using hr
    exact s.getV_writeFlagged_ne flag op hx hVF

theorem State.advance_writeFlagged_pc (s : State) (x : Reg) (flag : Byte) (op : State → Byte) :
    (s.writeFlagged x flag op).advance.pc = s.pc + 2 := by
  rw [State.advance_pc, State.writeFlagged_pc]

/-! ### The flags and the results as numbers -/

theorem flagByte_decide (p : Prop) [Decidable p] : flagByte (decide p) = if p then 1 else 0 := by
  simp [flagByte]

theorem flagByte_decide_toNat (p : Prop) [Decidable p] : (flagByte (decide p)).toNat = if p then 1 else 0 := by
  rw [flagByte_decide, apply_ite BitVec.toNat]
  rfl

theorem byte_sub_toNat (a b : Byte) : (a - b).toNat = (256 + a.toNat - b.toNat) % 256 := by
  have hb := b.isLt
  rw [BitVec.toNat_sub]
  congr 1
  omega

theorem byte_shiftRight_one_toNat (a : Byte) : (a >>> 1).toNat = a.toNat / 2 := by
  rw [BitVec.toNat_ushiftRight, Nat.shiftRight_eq_div_pow, Nat.pow_one]

theorem byte_shiftLeft_one_toNat (a : Byte) : (a <<< 1).toNat = 2 * a.toNat % 256 := by
  rw [BitVec.toNat_shiftLeft, Nat.shiftLeft_eq, Nat.mul_comm]

theorem lowBitFlag_toNat (a : Byte) : (lowBitFlag a).toNat = a.toNat % 2 := by
  rw [lowBitFlag, BitVec.toNat_and]
  exact Nat.and_one_is_mod _

theorem highBitFlag_toNat (a : Byte) : (highBitFlag a).toNat = a.toNat / 128 := by
  rw [highBitFlag, BitVec.toNat_ushiftRight, Nat.shiftRight_eq_div_pow]

/-- An operand of an operation that runs after the flag was written: the flag where it is VF, else the old value (R163). -/
theorem State.getV_setV_VF_toNat (s : State) (flag : Byte) (r : Reg) :
    ((s.setV VF flag).getV r).toNat = if r = VF then flag.toNat else (s.getV r).toNat := by
  rw [State.getV_setV, apply_ite BitVec.toNat]

/-! ### The flag and the result of an instruction (R163) -/

/-- When VF is neither `V[x]` nor read by the operation, both orders leave the plain result and the flag (R163). -/
theorem exec_flagged_plain {r : Nat} (hexec : exec i s = .next (s.writeFlagged x flag op).advance) (hx : x ≠ VF)
    (hop : op (s.setV VF flag) = op s) (hr : (op s).toNat = r) :
    ∃ t, exec i s = .next t ∧ (t.getV x).toNat = r ∧ t.getV VF = flag ∧ t.pc = s.pc + 2
      ∧ OnlyRegistersChange [x, VF] s t := by
  refine ⟨_, hexec, ?result, ?flag, s.advance_writeFlagged_pc x flag op, s.advance_writeFlagged_frame x flag op⟩
  case result =>
    rw [← hr]
    exact congrArg BitVec.toNat ((State.getV_writeFlagged_plain hx hop x).trans (if_pos rfl))
  case flag =>
    exact (State.getV_writeFlagged_plain hx hop VF).trans ((if_neg hx.symm).trans (if_pos rfl))

/-- Under `flag_first` the result, as a number, is a function `r` of the flag, which the operation reads in VF. -/
theorem exec_flagged_flagFirst {c : Nat} {r : Nat → Nat} (hexec : exec i s = .next (s.writeFlagged x flag op).advance)
    (h : s.params.vfOrder = .flagFirst) (hc : flag.toNat = c) (hr : (op (s.setV VF flag)).toNat = r flag.toNat) :
    ∃ t d, exec i s = .next t ∧ d = c ∧ (t.getV x).toNat = r d ∧ (x ≠ VF → (t.getV VF).toNat = d) ∧ t.pc = s.pc + 2
      ∧ OnlyRegistersChange [x, VF] s t := by
  refine ⟨_, flag.toNat, hexec, hc, ?result, fun hx => congrArg BitVec.toNat ?flag, s.advance_writeFlagged_pc x flag op,
    s.advance_writeFlagged_frame x flag op⟩
  case result =>
    rw [← hr]
    exact congrArg BitVec.toNat ((State.getV_writeFlagged_flagFirst h x flag op x).trans (if_pos rfl))
  case flag =>
    exact (State.getV_writeFlagged_flagFirst h x flag op VF).trans ((if_neg hx.symm).trans (if_pos rfl))

/-- Under `result_last` the flag overwrites the result where `V[x]` is VF. -/
theorem exec_flagged_resultLast {c r : Nat} (hexec : exec i s = .next (s.writeFlagged x flag op).advance)
    (h : s.params.vfOrder = .resultLast) (hc : flag.toNat = c) (hr : (op s).toNat = r) :
    ∃ t, exec i s = .next t ∧ (t.getV VF).toNat = c ∧ (x ≠ VF → (t.getV x).toNat = r) ∧ t.pc = s.pc + 2
      ∧ OnlyRegistersChange [x, VF] s t := by
  refine ⟨_, hexec, ?flag, fun hx => ?result, s.advance_writeFlagged_pc x flag op, s.advance_writeFlagged_frame x flag op⟩
  case flag =>
    rw [← hc]
    exact congrArg BitVec.toNat ((State.getV_writeFlagged_resultLast h x flag op VF).trans (if_pos rfl))
  case result =>
    rw [← hr]
    exact congrArg BitVec.toNat
      ((State.getV_writeFlagged_resultLast h x flag op x).trans ((if_neg hx).trans (if_pos rfl)))

end Sys2Proof.Machine
end

section
/-! SUPPORT. The statements of 43_alu.md without a random draw (R150 to R160, R162, R163). -/

namespace Sys2Proof.Machine

/-- Settles O39: each of the two writes `V[x]` alone, and the sum of bytes is the sum mod 256. -/
theorem immediateLoadAndAdd : Obligations.ImmediateLoadAndAdd := fun x nn s =>
  ⟨⟨_, rfl, s.getV_setV_same x nn, rfl, s.advance_setV_frame x nn⟩,
    ⟨_, rfl, (congrArg BitVec.toNat (s.getV_setV_same x _)).trans (BitVec.toNat_add _ _), rfl, s.advance_setV_frame x _⟩⟩

/-- Settles O40: each of the four writes `V[x]` alone, and the logic on bytes is that on their bits. -/
theorem copyAndLogicWriteDestinationOnly : Obligations.CopyAndLogicWriteDestinationOnly := by
  intro x y s
  have written {v : Byte} {k : Nat} {b : Bool} (h : v.getLsbD k = b) : ((s.setV x v).advance.getV x).getLsbD k = b :=
    (congrArg (BitVec.getLsbD · k) (s.getV_setV_same x v)).trans h
  exact ⟨⟨_, rfl, s.getV_setV_same x _, rfl, s.advance_setV_frame x _⟩,
    ⟨_, rfl, fun _ => written BitVec.getLsbD_or, rfl, s.advance_setV_frame x _⟩,
    ⟨_, rfl, fun _ => written BitVec.getLsbD_and, rfl, s.advance_setV_frame x _⟩,
    ⟨_, rfl, fun _ => written BitVec.getLsbD_xor, rfl, s.advance_setV_frame x _⟩⟩

/-- Settles O41: the operands are not VF, so writing the flag changes neither. -/
theorem addSetsCarry : Obligations.AddSetsCarry := by
  intro x y s hx hy
  have hop (c : Byte) : (s.setV VF c).getV x + (s.setV VF c).getV y = s.getV x + s.getV y := by
    rw [s.getV_setV_ne c hx, s.getV_setV_ne c hy]
  rw [← flagByte_decide]
  exact exec_flagged_plain rfl hx (hop _) (BitVec.toNat_add _ _)

/-- Settles O42: the operands are not VF, so writing the flag changes neither. -/
theorem subtractSetsGreater : Obligations.SubtractSetsGreater := by
  intro x y s hx hy
  have hop (c : Byte) : (s.setV VF c).getV x - (s.setV VF c).getV y = s.getV x - s.getV y := by
    rw [s.getV_setV_ne c hx, s.getV_setV_ne c hy]
  have hopn (c : Byte) : (s.setV VF c).getV y - (s.setV VF c).getV x = s.getV y - s.getV x := by
    rw [s.getV_setV_ne c hx, s.getV_setV_ne c hy]
  rw [← flagByte_decide, ← flagByte_decide]
  exact ⟨exec_flagged_plain rfl hx (hop _) (byte_sub_toNat _ _), exec_flagged_plain rfl hx (hopn _) (byte_sub_toNat _ _)⟩

/-- Settles O43: the operand is not VF, and the flag is the bit shifted out. -/
theorem shiftsMoveBitToVF : Obligations.ShiftsMoveBitToVF := by
  intro x y s hx
  have hop (c : Byte) : (s.setV VF c).getV x = s.getV x := s.getV_setV_ne c hx
  rw [← lowBitFlag_toNat, ← highBitFlag_toNat]
  constructor
  · obtain ⟨t, ht, hresult, hflag, hrest⟩ := exec_flagged_plain (i := .shr x y) rfl hx
      (congrArg (fun v : Byte => v >>> 1) (hop (lowBitFlag (s.getV x)))) (byte_shiftRight_one_toNat _)
    exact ⟨t, ht, hresult, congrArg BitVec.toNat hflag, hrest⟩
  · obtain ⟨t, ht, hresult, hflag, hrest⟩ := exec_flagged_plain (i := .shl x y) rfl hx
      (congrArg (fun v : Byte => v <<< 1) (hop (highBitFlag (s.getV x)))) (byte_shiftLeft_one_toNat _)
    exact ⟨t, ht, hresult, congrArg BitVec.toNat hflag, hrest⟩

/-- Settles O44: each operation reads its operands after the flag was written to VF. -/
theorem flagFirstReadsNewVF : Obligations.FlagFirstReadsNewVF := by
  intro x y s h
  have readSub (c : Byte) (a b : Reg) : ((s.setV VF c).getV a - (s.setV VF c).getV b).toNat
      = (256 + (if a = VF then c.toNat else (s.getV a).toNat) - (if b = VF then c.toNat else (s.getV b).toNat)) % 256 := by
    rw [byte_sub_toNat, s.getV_setV_VF_toNat, s.getV_setV_VF_toNat]
  refine ⟨exec_flagged_flagFirst rfl h (flagByte_decide_toNat _) ?add,
    exec_flagged_flagFirst rfl h (flagByte_decide_toNat _) (readSub _ x y),
    exec_flagged_flagFirst rfl h (flagByte_decide_toNat _) (readSub _ y x), ?shr, ?shl⟩
  case add => rw [BitVec.toNat_add, s.getV_setV_VF_toNat, s.getV_setV_VF_toNat]
  case shr =>
    obtain ⟨t, d, ht, rfl, hresult, -, hpc, hframe⟩ := exec_flagged_flagFirst (i := .shr VF y) (r := (· / 2)) rfl h
      (lowBitFlag_toNat _) (by rw [byte_shiftRight_one_toNat, s.getV_setV_same])
    have hzero : (t.getV VF).toNat = 0 := hresult.trans (Nat.div_eq_of_lt (Nat.mod_lt _ (by decide)))
    exact ⟨t, ht, BitVec.eq_of_toNat_eq hzero, hpc, hframe.mono (by simp)⟩
  case shl =>
    obtain ⟨t, d, ht, rfl, hresult, -, hpc, hframe⟩ := exec_flagged_flagFirst (i := .shl VF y) (r := (2 * · % 256)) rfl h
      (highBitFlag_toNat _) (by rw [byte_shiftLeft_one_toNat, s.getV_setV_same])
    have hold := (s.getV VF).isLt
    have hsmall : 2 * ((s.getV VF).toNat / 128) < 256 := by omega
    exact ⟨t, ht, hresult.trans (Nat.mod_eq_of_lt hsmall), hpc, hframe.mono (by simp)⟩

/-- Settles O45: the flag is written last, over whatever the operation left in VF. -/
theorem resultLastKeepsFlag : Obligations.ResultLastKeepsFlag := fun _ _ _ h =>
  ⟨exec_flagged_resultLast rfl h (flagByte_decide_toNat _) (BitVec.toNat_add _ _),
    exec_flagged_resultLast rfl h (flagByte_decide_toNat _) (byte_sub_toNat _ _),
    exec_flagged_resultLast rfl h (flagByte_decide_toNat _) (byte_sub_toNat _ _),
    exec_flagged_resultLast rfl h (lowBitFlag_toNat _) (byte_shiftRight_one_toNat _),
    exec_flagged_resultLast rfl h (highBitFlag_toNat _) (byte_shiftLeft_one_toNat _)⟩

end Sys2Proof.Machine
end

section
/-! SUPPORT. The three instructions that write `I` (R170 to R172). -/

namespace Sys2Proof.Machine

/-- The sum in `Fx1E` wraps at 16 bits (R171). -/
theorem add_byteWord_toNat (w : Word) (v : Byte) : (w + byteWord v).toNat = (w.toNat + v.toNat) % 65536 := by
  rw [BitVec.toNat_add, byteWord_toNat]

/-- Five times a byte does not wrap (R172). -/
theorem glyphAddress_toNat (v : Byte) : (glyphAddress v).toNat = 5 * v.toNat := by
  have hv := v.isLt
  have hfit : 5 * v.toNat < 65536 := by omega
  rw [glyphAddress, BitVec.toNat_mul, byteWord_toNat]
  exact Nat.mod_eq_of_lt hfit

/-- A write of `I` and the advance change `I` and pc alone. -/
theorem exec_setI_advance {i : Instr} {s : State} {v : Word} {n : Nat} (hexec : exec i s = .next (s.setI v).advance)
    (hv : v.toNat = n) :
    ∃ t, exec i s = .next t ∧ t.I.toNat = n ∧ t.pc = s.pc + 2 ∧ t = { s with I := t.I, pc := t.pc } ∧ SameMemory s t :=
  ⟨_, hexec, hv, rfl, rfl, fun _ => rfl⟩

/-- Settles O47: each of the three is a write of `I`, and only the sum of `Fx1E` can wrap. -/
theorem indexRegisterWrites : Obligations.IndexRegisterWrites := fun nnn _ _ =>
  ⟨exec_setI_advance rfl (addrWord_toNat nnn), exec_setI_advance rfl (add_byteWord_toNat _ _),
    exec_setI_advance rfl (glyphAddress_toNat _)⟩

end Sys2Proof.Machine
end

section
/-! SUPPORT. The timer and the key taken by a key wait (R180 to R183). -/

namespace Sys2Proof.Machine

/-- The key scan finds the one key that is down with every higher key up (R181). -/
theorem State.lastKeyDown_eq_of_highest {s : State} {k : Fin 16} (hk : s.keyDown k = true)
    (hup : ∀ j, k < j → s.keyDown j = false) : s.lastKeyDown none allRegs = some k := by
  obtain ⟨m, -, hfound, hm, hmax⟩ | ⟨-, hnone⟩ := s.lastKeyDown_spec none allRegs allRegs_rising
  · have hkm : ¬ k < m := fun hlt => Bool.false_ne_true ((hup m hlt).symm.trans hm)
    have hmk : ¬ m < k := fun hlt => Bool.false_ne_true ((hmax k (mem_allRegs k) hlt).symm.trans hk)
    rw [hfound, le_antisymm (not_lt.mp hkm) (not_lt.mp hmk)]
  · exact absurd ((hnone k (mem_allRegs k)).symm.trans hk) Bool.false_ne_true

/-- A key code fits in a register. -/
theorem keyCode_toNat (k : Fin 16) : (BitVec.ofNat 8 k.val).toNat = k.val :=
  Nat.mod_eq_of_lt (k.isLt.trans (by decide))

/-- Settles O54: the scan finds `k`, and `V[x]` is all that is written with it. -/
theorem keyWaitTakesHighestKey : Obligations.KeyWaitTakesHighestKey := fun x s k hk hup =>
  ⟨_, exec_ldVxK_of_found (State.lastKeyDown_eq_of_highest hk hup),
    (congrArg BitVec.toNat (s.getV_setV_same x _)).trans (keyCode_toNat k), rfl, s.advance_setV_frame x _⟩

/-- Settles O53: `Fx07` is a write of `V[x]`, `Fx15` a write of `DT`, and `Fx18` the advance alone. -/
theorem timerReadWriteAndSoundNop : Obligations.TimerReadWriteAndSoundNop := fun x s =>
  ⟨⟨_, rfl, s.getV_setV_same x s.DT, rfl, s.advance_setV_frame x s.DT⟩,
    ⟨(s.setDT (s.getV x)).advance, rfl, rfl, rfl, rfl, fun _ => rfl⟩, rfl⟩

end Sys2Proof.Machine
end

section
/-! SUPPORT. The host's `TICK` and `KEYS`, and what a latched fault leaves of the commands (R196, R204, R207). -/

namespace Sys2Proof.Machine

/-- The rule of a waiting `TICK` in any state, from which both statements about `TICK` follow (R204). -/
theorem step_tick {s : State} {rest : List Command} (h : s.commands = .tick :: rest) :
    ∃ t, step s = .next t ∧ t = { s with DT := t.DT, commands := rest } ∧ t.DT.toNat = s.DT.toNat - 1 :=
  ⟨_, step_of_commands_tick h, cmdTick_eq (s.setCommands rest)⟩

/-- Settles O10: an `EXEC` stops at the latch, and neither `TICK` nor `KEYS` looks at it. -/
theorem faultedExecIsInert : Obligations.FaultedExecIsInert := by
  intro s rest hf
  refine ⟨fun hc => ?exec, step_tick, fun _ => step_of_commands_keys⟩
  case exec => exact (step_of_commands_exec hc).trans (execCommand_of_fault (s := s.setCommands rest) hf)

/-- Settles O11: above 0 and at 0, the new `DT` is the truncated difference. -/
theorem tickDecrementsToZero : Obligations.TickDecrementsToZero := by
  intro s rest hc
  obtain ⟨t, hstep, hframe, hDT⟩ := step_tick hc
  exact ⟨t, hstep, hframe, fun _ => hDT, fun hzero => by rw [hDT, hzero]⟩

/-- Settles O12: the key flags are the bits of `KEY`, which becomes `k`. -/
theorem keysReplaceAllFlags : Obligations.KeysReplaceAllFlags := fun _ _ _ hc =>
  ⟨_, step_of_commands_keys hc, rfl, fun _ => rfl⟩

end Sys2Proof.Machine
end

section
/-! SUPPORT. Every step answers a next state: each of the five commands does. -/

namespace Sys2Proof.Machine

/-- A latched fault, a fetch out of range, an instruction and an `UNIMPL` word all leave a next state (R90, R98, R196). -/
theorem execCommand_next (s : State) : ∃ t, execCommand s = .next t := by
  by_cases hf : s.fault = .none
  · by_cases hp : s.pc.toNat ≤ 4094
    · cases hd : decodeWord (wordOfBytes (s.readByte s.pc.toNat) (s.readByte (s.pc.toNat + 1))) with
      | ok i =>
        obtain ⟨t, ht, -⟩ := exec_effect i s
        exact ⟨t, (execCommand_ok hf hp hd).trans ht⟩
      | error e => exact ⟨_, execCommand_error hf hp hd⟩
    · exact ⟨_, execCommand_of_fetch_out_of_range hf (Nat.lt_of_not_le hp)⟩
  · exact ⟨_, execCommand_of_fault hf⟩

theorem runCommand_next (c : Command) (s : State) : ∃ t, runCommand c s = .next t := by
  cases c with
  | exec => exact execCommand_next s
  | tick | keys | reset | load => exact ⟨_, rfl⟩

/-- Settles O19: a step is an `EXEC` or the oldest waiting command. -/
theorem stepAlwaysAnswersNext : Obligations.StepAlwaysAnswersNext := by
  intro s
  unfold step
  split
  · exact execCommand_next s
  · exact runCommand_next _ _

end Sys2Proof.Machine
end

section
/-! SUPPORT. `RESET`, and `LOAD` on either side of its size check (R230 to R232). -/

namespace Sys2Proof.Machine

variable {s : State} {rom : List Byte} {rest : List Command}

theorem step_of_commands_reset (h : s.commands = .reset :: rest) : step s = .next (s.setCommands rest).toReset := by
  rw [step, h]
  rfl

theorem step_of_commands_load (h : s.commands = .load rom :: rest) : step s = .next (cmdLoad rom (s.setCommands rest)) := by
  rw [step, h]
  rfl

/-! ### `RESET` -/

theorem State.readByte_toReset_font (s : State) (k : Fin 80) : s.toReset.readByte k.val = s.params.font[k] :=
  resetByte_font s.params k

theorem State.readByte_toReset_zero (s : State) {a : Nat} (h : 80 ≤ a) : s.toReset.readByte a = 0 :=
  resetByte_zero s.params h

/-- Settles O13: memory lists nothing, and each other element is that of `State.reset`, of which O14 speaks. -/
theorem resetRestoresEveryElement : Obligations.ResetRestoresEveryElement := by
  intro s rest hc
  obtain ⟨-, -, -, -, hpc, hsp, hstack, hV, hI, hDT, hFB, hKEY, hfault, hinfo, hdiag⟩ := resetStateHasSpecValues
  exact ⟨_, step_of_commands_reset hc, State.readByte_toReset_font _, fun _ ha _ => State.readByte_toReset_zero _ ha,
    hpc, hsp, hstack, hV, hI, hDT, hFB, hKEY, hfault, hinfo, hdiag, rfl⟩

/-! ### `LOAD` -/

theorem cmdLoad_of_le (h : rom.length ≤ romMaxBytes s.params.romMax) : cmdLoad rom s = s.toReset.copyRom rom :=
  if_neg (Nat.not_lt_of_le h)

theorem cmdLoad_of_gt (h : rom.length > romMaxBytes s.params.romMax) : cmdLoad rom s = s.toReset.setLoadStatus .tooLarge :=
  if_pos h

/-- A ROM of at most `ROM_MAX` bytes is accepted (R231). -/
theorem loadStatus_cmdLoad_of_le (h : rom.length ≤ romMaxBytes s.params.romMax) : (cmdLoad rom s).loadStatus = some .ok := by
  rw [cmdLoad_of_le h]
  rfl

/-- Every byte of a ROM that fits in memory stands at its own distance from 0x200 (R231). -/
theorem State.readByte_copyRom_rom (s : State) (hrom : rom.length ≤ 3584) {k : Nat} (hk : k < rom.length) :
    (s.copyRom rom).readByte (0x200 + k) = rom[k] := by
  rw [State.readByte_copyRom, if_pos (by omega), Nat.add_sub_cancel_left, List.getD_eq_getElem rom 0 hk]

/-- A byte before or after the ROM is as it was (R231). -/
theorem State.readByte_copyRom_outside (s : State) {a : Nat} (h : a < 0x200 ∨ 0x200 + rom.length ≤ a) :
    (s.copyRom rom).readByte a = s.readByte a := by
  rw [State.readByte_copyRom, if_neg (by omega)]

/-- Below the program a `LOAD` leaves what a reset leaves, whether or not the ROM fits. -/
theorem readByte_cmdLoad_below (rom : List Byte) (s : State) {a : Nat} (h : a < 0x200) :
    (cmdLoad rom s).readByte a = s.toReset.readByte a := by
  obtain hle | hgt := le_or_gt rom.length (romMaxBytes s.params.romMax)
  · rw [cmdLoad_of_le hle]
    exact s.toReset.readByte_copyRom_outside (.inl h)
  · rw [cmdLoad_of_gt hgt]
    rfl

/-- Settles O15, on either side of the size check; beyond memory and the status a `LOAD` is a reset. -/
theorem loadCopiesRomAfterReset : Obligations.LoadCopiesRomAfterReset := by
  intro s rom rest hc
  refine ⟨_, step_of_commands_load hc, fun hle => ?fits, fun hgt => ?tooLong, fun k => ?font, fun a h80 ha => ?low, ?elements⟩
  case fits =>
    have hrom : rom.length ≤ 3584 := hle.trans (romMaxBytes_le _)
    refine ⟨loadStatus_cmdLoad_of_le hle, ?_⟩
    rw [cmdLoad_of_le (s := s.setCommands rest) hle]
    refine ⟨fun k hk => State.readByte_copyRom_rom _ hrom hk, fun a ha _ => ?_⟩
    rw [State.readByte_copyRom_outside _ (.inr ha), State.readByte_toReset_zero _ (by omega)]
  case tooLong =>
    rw [cmdLoad_of_gt (s := s.setCommands rest) hgt]
    exact ⟨rfl, fun a ha _ => State.readByte_toReset_zero _ (by omega)⟩
  case font =>
    rw [readByte_cmdLoad_below _ _ (by omega)]
    exact State.readByte_toReset_font _ k
  case low => rw [readByte_cmdLoad_below _ _ ha, State.readByte_toReset_zero _ h80]
  case elements =>
    obtain ⟨-, -, -, -, hvalues⟩ := resetStateHasSpecValues
    rw [cmdLoad_eq]
    exact hvalues

/-- Settles O16, on either side of the size check. -/
theorem oversizeLoadLeavesResetState : Obligations.OversizeLoadLeavesResetState :=
  ⟨fun _ _ _ h => ⟨_, _, step_of_commands_load rfl, step_of_commands_reset rfl, cmdLoad_of_gt h⟩,
    fun _ _ h => (romMaxBytes_le _).trans_lt h,
    fun _ _ _ h => ⟨_, step_of_commands_load rfl, loadStatus_cmdLoad_of_le h⟩⟩

end Sys2Proof.Machine
end
